-- ==== Sys2Proof/Word.lean ====
section
/-! DEFINITION. The word types of the LDB core's command port and memory (spec 00_scope R12, R15; 30_encoding R90, R92). -/

namespace Sys2Proof

/-- One byte of a buffer space or of host memory. -/
abbrev Byte := BitVec 8

/-- One word of the command port or of the response port (R12, R90). -/
abbrev Word := BitVec 32

/-- A slot index as it travels in the T and S fields of a header (R12, R91). -/
abbrev Handle := BitVec 8

/-- A host memory address, HOST_ADDR_BITS = 64 bits (R11, D18). -/
abbrev HostAddr := BitVec 64

/-- A canonical pixel: r[31:24], g[23:16], b[15:8], a[7:0] (R15). -/
abbrev Pixel := BitVec 32

/-- A point of the integer plane, x first. -/
abbrev Point := Int × Int

/-- An argument word read as a signed integer (R92 kind `s32`). -/
abbrev S32 := Word

/-- An argument word read as an unsigned integer (R92 kind `u32`). -/
abbrev U32 := Word

/-- An argument word read as a Q24.8 radius (R92 kind `q8`). -/
abbrev Q8 := Word

/-- An argument word that holds three channel masks (R92 kind `mask`). -/
abbrev Mask := Word

/-- How many data words carry n bytes: ceil(n/4) (R93, R95). -/
def dataWordCount (n : Nat) : Nat := (n + 3) / 4

end Sys2Proof
end

