-- ==== Sys2Proof/Config.lean ====
section
/-! DEFINITION. What the spec leaves to the implementation or to a free draw (spec 00_scope R11). The constants here
have no body, so that no proof can see what they are and a statement holds for every value they may have. -/

namespace Sys2Proof

/-- NUM_SLOTS less one, a free constant in 0..255 (R11, D11; log entry 1). -/
opaque Config.numSlotsLessOne : Fin 256

/-- NUM_SLOTS: how many slots the table has, 1 ≤ NUM_SLOTS ≤ 256 (R11, D11; log entry 1). -/
def Config.numSlots : Nat := Config.numSlotsLessOne.val + 1

/-- MEM_LIMIT less one, a free constant in 0..2^32-2 (R11, D14; log entry 1). -/
opaque Config.memLimitLessOne : Fin 4294967295

/-- MEM_LIMIT: the largest byte_length of an owned buffer, 1 ≤ MEM_LIMIT ≤ 2^32-1 (R11, D14; log entry 1). -/
def Config.memLimit : Nat := Config.memLimitLessOne.val + 1

/-- alloc_ok: whether the allocator grants the n-th request that is put to it; a free draw a NEW (R11, D14; log entry 2). -/
opaque Config.allocOk : Nat → Bool

end Sys2Proof
end

