-- ==== Sys2Proof/Syntax.lean ====
section
/-! DEFINITION. The command set LDBC-1: one constructor per row of spec/opcode_table.json (spec 30_encoding R98, R99, R104).
An argument keeps its whole word (R92); how a meaning reads it is its kind's (Machine/Operands.lean). -/

namespace Sys2Proof

/-- One command with its handles and its argument words, in the order of R99. -/
inductive Instr where
  /-- PX_DECODE (R160). -/
  | pxDecode (fmt packed : U32)
  /-- PX_ENCODE (R161). -/
  | pxEncode (fmt : U32) (pixel : Pixel)
  /-- FMT_BPP (R162). -/
  | fmtBpp (fmt : U32)
  /-- FMT_SIZE (R163). -/
  | fmtSize (fmt : U32) (w h : S32)
  /-- FMT_NAME (R164). -/
  | fmtName (fmt : U32)
  /-- FMT_ID (R165): the three words of a name (R96). -/
  | fmtId (name0 name1 name2 : Word)
  /-- NEW (R170). -/
  | new (t : Handle) (w h : S32) (fmt : U32)
  /-- WRAP (R171). -/
  | wrap (t : Handle) (w h : S32) (fmt baseLo baseHi ctx : U32)
  /-- CLOSE (R172). -/
  | close (t : Handle)
  /-- WIDTH (R173). -/
  | width (t : Handle)
  /-- HEIGHT (R174). -/
  | height (t : Handle)
  /-- PIXEL_FORMAT (R175). -/
  | pixelFormat (t : Handle)
  /-- BYTE_LENGTH (R176). -/
  | byteLength (t : Handle)
  /-- GET_PIXEL (R183). -/
  | getPixel (t : Handle) (x y : S32)
  /-- SET_PIXEL (R184). -/
  | setPixel (t : Handle) (x y : S32) (pixel : Pixel)
  /-- DUMP (R186). -/
  | dump (t : Handle)
  /-- LOAD (R187): the byte count and the data words (R93). -/
  | load (t : Handle) (n : U32) (data : List Word)
  /-- CLEAR (R188). -/
  | clear (t : Handle) (r g b a : S32)
  /-- BLEND (R212). -/
  | blend (base paint : Pixel)
  /-- LINE, MODE 0 (R221). -/
  | line (t : Handle) (x0 y0 x1 y1 : S32) (color : Pixel)
  /-- LINE.B, MODE 1 (R221). -/
  | lineB (t : Handle) (x0 y0 x1 y1 : S32) (color : Pixel)
  /-- LINE_AA (R231). -/
  | lineAa (t : Handle) (x0 y0 x1 y1 : S32) (radius : Q8) (color : Pixel)
  /-- RECT.F, MODE 0 (R251). -/
  | rectF (t : Handle) (x y w h : S32) (color : Pixel)
  /-- RECT.FB, MODE 1 (R251). -/
  | rectFB (t : Handle) (x y w h : S32) (color : Pixel)
  /-- RECT.O, MODE 2 (R251). -/
  | rectO (t : Handle) (x y w h : S32) (color : Pixel)
  /-- RECT.OB, MODE 3 (R251). -/
  | rectOB (t : Handle) (x y w h : S32) (color : Pixel)
  /-- TRIANGLE, MODE 0 (R261). -/
  | triangle (t : Handle) (x0 y0 x1 y1 x2 y2 : S32) (color : Pixel)
  /-- TRIANGLE.B, MODE 1 (R261). -/
  | triangleB (t : Handle) (x0 y0 x1 y1 x2 y2 : S32) (color : Pixel)
  /-- CIRCLE.F, MODE 0 (R271). -/
  | circleF (t : Handle) (cx cy r : S32) (color : Pixel)
  /-- CIRCLE.FB, MODE 1 (R271). -/
  | circleFB (t : Handle) (cx cy r : S32) (color : Pixel)
  /-- CIRCLE.O, MODE 2 (R271). -/
  | circleO (t : Handle) (cx cy r : S32) (color : Pixel)
  /-- CIRCLE.OB, MODE 3 (R271). -/
  | circleOB (t : Handle) (cx cy r : S32) (color : Pixel)
  /-- CIRCLE_AA.F, MODE 0 (R281). -/
  | circleAaF (t : Handle) (cx cy : S32) (radius : Q8) (color : Pixel)
  /-- CIRCLE_AA.O, MODE 2 (R281). -/
  | circleAaO (t : Handle) (cx cy : S32) (radius : Q8) (color : Pixel)
  /-- DITHER, MODE 0 (R291). -/
  | dither (t : Handle) (mask : Mask)
  /-- DITHER.D, MODE 1 (R291). -/
  | ditherD (t : Handle) (fmt : U32)
  /-- COMPOSE.OP, MODE 0 (R301): t the target, s the source. -/
  | composeOp (t s : Handle) (tx ty sx sy w h scaleX scaleY : S32)
  /-- COMPOSE.SKIP, MODE 1 (R301). -/
  | composeSkip (t s : Handle) (tx ty sx sy w h scaleX scaleY : S32)
  /-- COMPOSE.BLEND, MODE 2 (R301). -/
  | composeBlend (t s : Handle) (tx ty sx sy w h scaleX scaleY : S32)
  deriving DecidableEq, Repr

end Sys2Proof
end

