-- ==== Sys2Proof/WellFormed.lean ====
section
/-! DEFINITION. Which terms of Instr are commands: the types bound every field, so that the one relation left to check
is LOAD's, whose data words are as many as its byte count needs (spec 30_encoding R93). -/

namespace Sys2Proof

/-- i is a command of the port: a LOAD of n bytes has ceil(n/4) data words (R93). -/
def Instr.wellFormed : Instr → Bool
  | .load _ n data => data.length == dataWordCount n.toNat
  | .pxDecode .. | .pxEncode .. | .fmtBpp .. | .fmtSize .. | .fmtName .. | .fmtId .. => true
  | .new .. | .wrap .. | .close .. | .width .. | .height .. | .pixelFormat .. | .byteLength .. => true
  | .getPixel .. | .setPixel .. | .dump .. | .clear .. | .blend .. => true
  | .line .. | .lineB .. | .lineAa .. | .rectF .. | .rectFB .. | .rectO .. | .rectOB .. => true
  | .triangle .. | .triangleB .. | .circleF .. | .circleFB .. | .circleO .. | .circleOB .. => true
  | .circleAaF .. | .circleAaO .. | .dither .. | .ditherD .. => true
  | .composeOp .. | .composeSkip .. | .composeBlend .. => true

end Sys2Proof
end

