-- ==== Sys2Proof/Decode.lean ====
section
/-! DEFINITION. Decoding and encoding of commands (spec 30_encoding R91 to R106). A command is a header word and its
argument words; the decoder is total on any list of words and rejects by name. -/

namespace Sys2Proof

/-- One row of the opcode map: an opcode with one of its legal MODE values (R98, R99, R105). -/
inductive Op where
  | pxDecode | pxEncode | fmtBpp | fmtSize | fmtName | fmtId | new | wrap | close | width | height
  | pixelFormat | byteLength | getPixel | setPixel | dump | load | clear | blend | line | lineB | lineAa
  | rectF | rectFB | rectO | rectOB | triangle | triangleB | circleF | circleFB | circleO | circleOB
  | circleAaF | circleAaO | dither | ditherD | composeOp | composeSkip | composeBlend
  deriving DecidableEq, Repr

/-- Every row, in the order of spec/opcode_table.json. -/
def Op.all : List Op :=
  [.pxDecode, .pxEncode, .fmtBpp, .fmtSize, .fmtName, .fmtId, .new, .wrap, .close, .width, .height, .pixelFormat, .byteLength] ++
  [.getPixel, .setPixel, .dump, .load, .clear, .blend, .line, .lineB, .lineAa, .rectF, .rectFB, .rectO, .rectOB] ++
  [.triangle, .triangleB, .circleF, .circleFB, .circleO, .circleOB, .circleAaF, .circleAaO, .dither, .ditherD, .composeOp, .composeSkip, .composeBlend]

/-- OPC, bits [7:0] of the header (R91, R99). -/
def Op.opc : Op → BitVec 8
  | .pxDecode => 0x01
  | .pxEncode => 0x02
  | .fmtBpp => 0x03
  | .fmtSize => 0x04
  | .fmtName => 0x05
  | .fmtId => 0x06
  | .new => 0x10
  | .wrap => 0x11
  | .close => 0x12
  | .width => 0x13
  | .height => 0x14
  | .pixelFormat => 0x15
  | .byteLength => 0x16
  | .getPixel => 0x17
  | .setPixel => 0x18
  | .dump => 0x19
  | .load => 0x1A
  | .clear => 0x1B
  | .blend => 0x20
  | .line | .lineB => 0x30
  | .lineAa => 0x31
  | .rectF | .rectFB | .rectO | .rectOB => 0x32
  | .triangle | .triangleB => 0x33
  | .circleF | .circleFB | .circleO | .circleOB => 0x34
  | .circleAaF | .circleAaO => 0x35
  | .dither | .ditherD => 0x40
  | .composeOp | .composeSkip | .composeBlend => 0x50

/-- MODE, bits [11:8] of the header (R91, R98). -/
def Op.mode : Op → BitVec 4
  | .pxDecode | .pxEncode | .fmtBpp | .fmtSize | .fmtName | .fmtId | .new => 0
  | .wrap | .close | .width | .height | .pixelFormat | .byteLength | .getPixel => 0
  | .setPixel | .dump | .load | .clear | .blend | .line => 0
  | .lineB => 1
  | .lineAa | .rectF => 0
  | .rectFB => 1
  | .rectO => 2
  | .rectOB => 3
  | .triangle => 0
  | .triangleB => 1
  | .circleF => 0
  | .circleFB => 1
  | .circleO => 2
  | .circleOB => 3
  | .circleAaF => 0
  | .circleAaO => 2
  | .dither => 0
  | .ditherD => 1
  | .composeOp => 0
  | .composeSkip => 1
  | .composeBlend => 2

/-- Whether the T field is a handle of this command (R99). -/
def Op.usesT : Op → Bool
  | .pxDecode | .pxEncode | .fmtBpp | .fmtSize | .fmtName | .fmtId => false
  | .new | .wrap | .close | .width | .height | .pixelFormat | .byteLength => true
  | .getPixel | .setPixel | .dump | .load | .clear => true
  | .blend => false
  | .line | .lineB | .lineAa | .rectF | .rectFB | .rectO | .rectOB => true
  | .triangle | .triangleB | .circleF | .circleFB | .circleO | .circleOB | .circleAaF => true
  | .circleAaO | .dither | .ditherD | .composeOp | .composeSkip | .composeBlend => true

/-- Whether the S field is a handle of this command: COMPOSE only (R91, R99). -/
def Op.usesS : Op → Bool
  | .pxDecode | .pxEncode | .fmtBpp | .fmtSize | .fmtName | .fmtId | .new => false
  | .wrap | .close | .width | .height | .pixelFormat | .byteLength | .getPixel => false
  | .setPixel | .dump | .load | .clear | .blend | .line | .lineB => false
  | .lineAa | .rectF | .rectFB | .rectO | .rectOB | .triangle | .triangleB => false
  | .circleF | .circleFB | .circleO | .circleOB | .circleAaF | .circleAaO | .dither => false
  | .ditherD => false
  | .composeOp | .composeSkip | .composeBlend => true

/-- How many argument words follow the header, LOAD's data words not counted (R99, R102). -/
def Op.argCount : Op → Nat
  | .pxDecode | .pxEncode => 2
  | .fmtBpp => 1
  | .fmtSize => 3
  | .fmtName => 1
  | .fmtId | .new => 3
  | .wrap => 6
  | .close | .width | .height | .pixelFormat | .byteLength => 0
  | .getPixel => 2
  | .setPixel => 3
  | .dump => 0
  | .load => 1
  | .clear => 4
  | .blend => 2
  | .line | .lineB => 5
  | .lineAa => 6
  | .rectF | .rectFB | .rectO | .rectOB => 5
  | .triangle | .triangleB => 7
  | .circleF | .circleFB | .circleO | .circleOB | .circleAaF | .circleAaO => 4
  | .dither | .ditherD => 1
  | .composeOp | .composeSkip | .composeBlend => 8

/-- The row with this opcode and MODE, if the map has one (R98, R99, R101). -/
def Op.ofCode? (opc : BitVec 8) (mode : BitVec 4) : Option Op :=
  Op.all.find? fun op => op.opc == opc && op.mode == mode

/-- A header word taken apart: the row of the opcode map and the two handle fields (R91). -/
structure Header where
  op : Op
  t : Handle
  s : Handle
  deriving DecidableEq, Repr

/-- Header decoding, the IllegalCommand checks of R100 in their order: the opcode and its MODE must be in the map (R98,
R99), RSV must be 0, and a handle field the command does not use must be 0. `none` is IllegalCommand. -/
def decodeHeader (hdr : Word) : Option Header :=
  let opc := hdr.extractLsb' 0 8
  let mode := hdr.extractLsb' 8 4
  let rsv := hdr.extractLsb' 12 4
  let t := hdr.extractLsb' 16 8
  let s := hdr.extractLsb' 24 8
  match Op.ofCode? opc mode with
  | none => none
  | some op =>
    if rsv ≠ 0 then none
    else if !op.usesT && t != 0 then none
    else if !op.usesS && s != 0 then none
    else some ⟨op, t, s⟩

/-- The command's argument words, read in the order of R99, and the words after them. `none`: words are missing.
LOAD reads its byte count n and then ceil(n/4) data words (R93). -/
def Op.assemble (t s : Handle) : Op → List Word → Option (Instr × List Word)
  | .pxDecode, fmt :: packed :: rest => some (.pxDecode fmt packed, rest)
  | .pxDecode, _ => none
  | .pxEncode, fmt :: pixel :: rest => some (.pxEncode fmt pixel, rest)
  | .pxEncode, _ => none
  | .fmtBpp, fmt :: rest => some (.fmtBpp fmt, rest)
  | .fmtBpp, _ => none
  | .fmtSize, fmt :: w :: h :: rest => some (.fmtSize fmt w h, rest)
  | .fmtSize, _ => none
  | .fmtName, fmt :: rest => some (.fmtName fmt, rest)
  | .fmtName, _ => none
  | .fmtId, n0 :: n1 :: n2 :: rest => some (.fmtId n0 n1 n2, rest)
  | .fmtId, _ => none
  | .new, w :: h :: fmt :: rest => some (.new t w h fmt, rest)
  | .new, _ => none
  | .wrap, w :: h :: fmt :: baseLo :: baseHi :: ctx :: rest => some (.wrap t w h fmt baseLo baseHi ctx, rest)
  | .wrap, _ => none
  | .close, rest => some (.close t, rest)
  | .width, rest => some (.width t, rest)
  | .height, rest => some (.height t, rest)
  | .pixelFormat, rest => some (.pixelFormat t, rest)
  | .byteLength, rest => some (.byteLength t, rest)
  | .getPixel, x :: y :: rest => some (.getPixel t x y, rest)
  | .getPixel, _ => none
  | .setPixel, x :: y :: pixel :: rest => some (.setPixel t x y pixel, rest)
  | .setPixel, _ => none
  | .dump, rest => some (.dump t, rest)
  | .load, n :: rest =>
    if dataWordCount n.toNat ≤ rest.length then
      some (.load t n (rest.take (dataWordCount n.toNat)), rest.drop (dataWordCount n.toNat))
    else none
  | .load, [] => none
  | .clear, r :: g :: b :: a :: rest => some (.clear t r g b a, rest)
  | .clear, _ => none
  | .blend, base :: paint :: rest => some (.blend base paint, rest)
  | .blend, _ => none
  | .line, x0 :: y0 :: x1 :: y1 :: color :: rest => some (.line t x0 y0 x1 y1 color, rest)
  | .line, _ => none
  | .lineB, x0 :: y0 :: x1 :: y1 :: color :: rest => some (.lineB t x0 y0 x1 y1 color, rest)
  | .lineB, _ => none
  | .lineAa, x0 :: y0 :: x1 :: y1 :: radius :: color :: rest => some (.lineAa t x0 y0 x1 y1 radius color, rest)
  | .lineAa, _ => none
  | .rectF, x :: y :: w :: h :: color :: rest => some (.rectF t x y w h color, rest)
  | .rectF, _ => none
  | .rectFB, x :: y :: w :: h :: color :: rest => some (.rectFB t x y w h color, rest)
  | .rectFB, _ => none
  | .rectO, x :: y :: w :: h :: color :: rest => some (.rectO t x y w h color, rest)
  | .rectO, _ => none
  | .rectOB, x :: y :: w :: h :: color :: rest => some (.rectOB t x y w h color, rest)
  | .rectOB, _ => none
  | .triangle, x0 :: y0 :: x1 :: y1 :: x2 :: y2 :: color :: rest => some (.triangle t x0 y0 x1 y1 x2 y2 color, rest)
  | .triangle, _ => none
  | .triangleB, x0 :: y0 :: x1 :: y1 :: x2 :: y2 :: color :: rest => some (.triangleB t x0 y0 x1 y1 x2 y2 color, rest)
  | .triangleB, _ => none
  | .circleF, cx :: cy :: r :: color :: rest => some (.circleF t cx cy r color, rest)
  | .circleF, _ => none
  | .circleFB, cx :: cy :: r :: color :: rest => some (.circleFB t cx cy r color, rest)
  | .circleFB, _ => none
  | .circleO, cx :: cy :: r :: color :: rest => some (.circleO t cx cy r color, rest)
  | .circleO, _ => none
  | .circleOB, cx :: cy :: r :: color :: rest => some (.circleOB t cx cy r color, rest)
  | .circleOB, _ => none
  | .circleAaF, cx :: cy :: radius :: color :: rest => some (.circleAaF t cx cy radius color, rest)
  | .circleAaF, _ => none
  | .circleAaO, cx :: cy :: radius :: color :: rest => some (.circleAaO t cx cy radius color, rest)
  | .circleAaO, _ => none
  | .dither, mask :: rest => some (.dither t mask, rest)
  | .dither, _ => none
  | .ditherD, fmt :: rest => some (.ditherD t fmt, rest)
  | .ditherD, _ => none
  | .composeOp, tx :: ty :: sx :: sy :: w :: h :: scaleX :: scaleY :: rest => some (.composeOp t s tx ty sx sy w h scaleX scaleY, rest)
  | .composeOp, _ => none
  | .composeSkip, tx :: ty :: sx :: sy :: w :: h :: scaleX :: scaleY :: rest => some (.composeSkip t s tx ty sx sy w h scaleX scaleY, rest)
  | .composeSkip, _ => none
  | .composeBlend, tx :: ty :: sx :: sy :: w :: h :: scaleX :: scaleY :: rest => some (.composeBlend t s tx ty sx sy w h scaleX scaleY, rest)
  | .composeBlend, _ => none

/-- Why the decoder gives no command. -/
inductive DecodeError where
  /-- The header is none of the map's: the fault IllegalCommand (R100, R101). -/
  | illegalCommand
  /-- The header is legal and words of the command have not been presented yet, or no word has (U15). -/
  | incomplete
  deriving DecidableEq, Repr

/-- The command at the head of a word stream and the stream after it; total on any words. -/
def decode : List Word → Except DecodeError (Instr × List Word)
  | [] => .error .incomplete
  | hdr :: rest =>
    match decodeHeader hdr with
    | none => .error .illegalCommand
    | some h =>
      match h.op.assemble h.t h.s rest with
      | none => .error .incomplete
      | some r => .ok r

/-- The row of the opcode map a command belongs to (R99). -/
def Instr.op : Instr → Op
  | .pxDecode .. => .pxDecode
  | .pxEncode .. => .pxEncode
  | .fmtBpp .. => .fmtBpp
  | .fmtSize .. => .fmtSize
  | .fmtName .. => .fmtName
  | .fmtId .. => .fmtId
  | .new .. => .new
  | .wrap .. => .wrap
  | .close .. => .close
  | .width .. => .width
  | .height .. => .height
  | .pixelFormat .. => .pixelFormat
  | .byteLength .. => .byteLength
  | .getPixel .. => .getPixel
  | .setPixel .. => .setPixel
  | .dump .. => .dump
  | .load .. => .load
  | .clear .. => .clear
  | .blend .. => .blend
  | .line .. => .line
  | .lineB .. => .lineB
  | .lineAa .. => .lineAa
  | .rectF .. => .rectF
  | .rectFB .. => .rectFB
  | .rectO .. => .rectO
  | .rectOB .. => .rectOB
  | .triangle .. => .triangle
  | .triangleB .. => .triangleB
  | .circleF .. => .circleF
  | .circleFB .. => .circleFB
  | .circleO .. => .circleO
  | .circleOB .. => .circleOB
  | .circleAaF .. => .circleAaF
  | .circleAaO .. => .circleAaO
  | .dither .. => .dither
  | .ditherD .. => .ditherD
  | .composeOp .. => .composeOp
  | .composeSkip .. => .composeSkip
  | .composeBlend .. => .composeBlend

/-- The command's target handle, the T field; 0 where unused (R91). -/
def Instr.target : Instr → Handle
  | .pxDecode .. | .pxEncode .. | .fmtBpp .. | .fmtSize .. | .fmtName .. | .fmtId .. | .blend .. => 0
  | .new t .. => t
  | .wrap t .. => t
  | .close t .. => t
  | .width t .. => t
  | .height t .. => t
  | .pixelFormat t .. => t
  | .byteLength t .. => t
  | .getPixel t .. => t
  | .setPixel t .. => t
  | .dump t .. => t
  | .load t .. => t
  | .clear t .. => t
  | .line t .. => t
  | .lineB t .. => t
  | .lineAa t .. => t
  | .rectF t .. => t
  | .rectFB t .. => t
  | .rectO t .. => t
  | .rectOB t .. => t
  | .triangle t .. => t
  | .triangleB t .. => t
  | .circleF t .. => t
  | .circleFB t .. => t
  | .circleO t .. => t
  | .circleOB t .. => t
  | .circleAaF t .. => t
  | .circleAaO t .. => t
  | .dither t .. => t
  | .ditherD t .. => t
  | .composeOp t .. => t
  | .composeSkip t .. => t
  | .composeBlend t .. => t

/-- The command's source handle, the S field; 0 where unused (R91). -/
def Instr.source : Instr → Handle
  | .pxDecode .. | .pxEncode .. | .fmtBpp .. | .fmtSize .. | .fmtName .. | .fmtId .. | .new .. | .wrap .. => 0
  | .close .. | .width .. | .height .. | .pixelFormat .. | .byteLength .. | .getPixel .. | .setPixel .. | .dump .. => 0
  | .load .. | .clear .. | .blend .. | .line .. | .lineB .. | .lineAa .. | .rectF .. | .rectFB .. => 0
  | .rectO .. | .rectOB .. | .triangle .. | .triangleB .. | .circleF .. | .circleFB .. | .circleO .. | .circleOB .. => 0
  | .circleAaF .. | .circleAaO .. | .dither .. | .ditherD .. => 0
  | .composeOp _ s .. => s
  | .composeSkip _ s .. => s
  | .composeBlend _ s .. => s

/-- The command's argument words in the order of R99. -/
def Instr.args : Instr → List Word
  | .pxDecode fmt packed => [fmt, packed]
  | .pxEncode fmt pixel => [fmt, pixel]
  | .fmtBpp fmt => [fmt]
  | .fmtSize fmt w h => [fmt, w, h]
  | .fmtName fmt => [fmt]
  | .fmtId n0 n1 n2 => [n0, n1, n2]
  | .new _ w h fmt => [w, h, fmt]
  | .wrap _ w h fmt baseLo baseHi ctx => [w, h, fmt, baseLo, baseHi, ctx]
  | .close _ => []
  | .width _ => []
  | .height _ => []
  | .pixelFormat _ => []
  | .byteLength _ => []
  | .getPixel _ x y => [x, y]
  | .setPixel _ x y pixel => [x, y, pixel]
  | .dump _ => []
  | .load _ n data => n :: data
  | .clear _ r g b a => [r, g, b, a]
  | .blend base paint => [base, paint]
  | .line _ x0 y0 x1 y1 color => [x0, y0, x1, y1, color]
  | .lineB _ x0 y0 x1 y1 color => [x0, y0, x1, y1, color]
  | .lineAa _ x0 y0 x1 y1 radius color => [x0, y0, x1, y1, radius, color]
  | .rectF _ x y w h color => [x, y, w, h, color]
  | .rectFB _ x y w h color => [x, y, w, h, color]
  | .rectO _ x y w h color => [x, y, w, h, color]
  | .rectOB _ x y w h color => [x, y, w, h, color]
  | .triangle _ x0 y0 x1 y1 x2 y2 color => [x0, y0, x1, y1, x2, y2, color]
  | .triangleB _ x0 y0 x1 y1 x2 y2 color => [x0, y0, x1, y1, x2, y2, color]
  | .circleF _ cx cy r color => [cx, cy, r, color]
  | .circleFB _ cx cy r color => [cx, cy, r, color]
  | .circleO _ cx cy r color => [cx, cy, r, color]
  | .circleOB _ cx cy r color => [cx, cy, r, color]
  | .circleAaF _ cx cy radius color => [cx, cy, radius, color]
  | .circleAaO _ cx cy radius color => [cx, cy, radius, color]
  | .dither _ mask => [mask]
  | .ditherD _ fmt => [fmt]
  | .composeOp _ _ tx ty sx sy w h scaleX scaleY => [tx, ty, sx, sy, w, h, scaleX, scaleY]
  | .composeSkip _ _ tx ty sx sy w h scaleX scaleY => [tx, ty, sx, sy, w, h, scaleX, scaleY]
  | .composeBlend _ _ tx ty sx sy w h scaleX scaleY => [tx, ty, sx, sy, w, h, scaleX, scaleY]

/-- A header word: S ++ T ++ 0000 ++ MODE ++ OPC (R91). -/
def encodeHeader (h : Header) : Word :=
  h.s ++ h.t ++ (0 : BitVec 4) ++ h.op.mode ++ h.op.opc

/-- The header of a command. -/
def Instr.header (i : Instr) : Header := ⟨i.op, i.target, i.source⟩

/-- The words of a command: its header word and its argument words (R91, R92). -/
def encode (i : Instr) : List Word := encodeHeader i.header :: i.args

/-- A command's length in words, from its header and, for LOAD, its first argument (R102); a header that faults is one
word (R100). -/
def commandLength : List Word → Nat
  | [] => 0
  | hdr :: rest =>
    match decodeHeader hdr with
    | none => 1
    | some h =>
      if h.op = .load then 2 + dataWordCount (rest.headD 0).toNat else 1 + h.op.argCount

/-- The command-port words of an instruction given as one number, bit 0 the least significant of the first word: its
nbits bits and zeros above them, as many words as the command has (R102; log entry 9). -/
def tableWords (nbits w : Nat) : List Word :=
  let given := (List.range (max 1 ((nbits + 31) / 32))).map fun k => BitVec.ofNat 32 (w / 2 ^ (32 * k))
  let len := commandLength given
  (given ++ List.replicate (len - given.length) 0).take len

/-- The command the decoder reads from an instruction's bits as spec/opcode_table.json numbers them. -/
def decodeTableWord (nbits w : Nat) : Option Instr :=
  match decode (tableWords nbits w) with
  | .ok (i, _) => some i
  | .error _ => none

end Sys2Proof
end

