-- ==== Sys2Proof/Machine/State.lean ====
section
/-! DEFINITION. The state of the LDB core as plain data, the reasons a step can stop, and the state right after reset
(spec 10_state, 20_memory R60, 70_reset_and_hazards R351). -/

namespace Sys2Proof.Machine

/-- The eleven pixel formats, ids 0..10 in this order (R4, R130). -/
inductive Format where
  | mono1 | gray8 | rgb332 | rgb565 | bgr565 | rgb888 | bgr888 | rgba8888 | argb8888 | abgr8888 | bgra8888
  deriving DecidableEq, Repr

/-- Byte memory as (address, byte) pairs: addresses strictly rising, no pair equal to what an unlisted address reads as
(`Memory.wf`, Machine/Ops.lean). -/
abbrev Memory := List Host.Cell

/-- What an unlisted address reads as: 0. In an owned buffer that is the spec's own (a byte never written since NEW
holds 0: R43, R72); in host memory it is the model's choice for bytes no one has listed (log entry 3). -/
abbrev unlistedByte : Byte := 0

/-- Who supplies a live slot's backing memory: the field `own` of R33 with the fields that depend on it. -/
inductive Backing where
  /-- Owned: the byte array `mem`, by byte offset (R33, R39). -/
  | owned (mem : Memory)
  /-- Borrowed: the host region that begins at `base`, and the teardown context `ctx` (R33, R39). -/
  | borrowed (base : HostAddr) (ctx : Word)
  deriving DecidableEq, Repr

/-- The descriptor of a Live slot (R33). -/
structure Drawbuffer where
  /-- Width in pixels. -/
  w : Nat
  /-- Height in pixels. -/
  h : Nat
  /-- Pixel format. -/
  fmt : Format
  /-- Owner and backing memory. -/
  backing : Backing
  deriving DecidableEq, Repr

/-- The whole state between commands (R40) and the two ports (R90, R351). -/
structure State where
  /-- The slot table, slot h at index h; its length is NUM_SLOTS; `none` is an Empty slot, whose other fields no command
  reads (R33, R42, U11; log entries 1 and 4). -/
  slots : List (Option Drawbuffer)
  /-- The FAULT register: cause in [7:0], [31:8] hardwired 0 (R37). -/
  fault : Word
  /-- Host memory, by host address (R60). -/
  hostMem : Memory
  /-- The command port: words the host has presented and the engine has not read, the next one first (R90). -/
  port : List Word
  /-- The response port: every word the engine has sent, the oldest first (R90, R342). -/
  resp : List Word
  /-- The model's own: how many alloc_ok draws have been taken (R11; log entry 2). -/
  allocDraws : Nat
  deriving DecidableEq, Repr

/-- Why the machine stops. Neither is one of the spec's faults, which are NEXT states with FAULT written (R326, R327). -/
inductive Fault where
  /-- Raised by `step` when the host has presented a legal header whose handles pass and words of the command are still
  missing: the engine waits and sends nothing, U15 "stuck" (R90, R340; log entry 6). Safe. -/
  | awaitingArguments
  /-- Raised by a command that would access the region of a Borrowed slot which runs past the last host address 2^64-1:
  the host has broken R354, and the spec's runs end there (U17, R342; log entry 7). Safe. -/
  | hostRegionMissing
  deriving DecidableEq, Repr

/-- Why an instruction is given no meaning. -/
inductive Refusal where
  /-- Raised by `exec` for an instruction that has no meaning yet; no arm does. Safe. -/
  | notModelled (mnemonic : String)
  deriving DecidableEq, Repr

/-- The outcome of a command or of a step. -/
abbrev Result := Host.Outcome State Fault Refusal

/-- The state right after reset (R42, R351): every slot Empty, FAULT 0, both ports empty. Host memory lists nothing
(log entry 3) and no draw has been taken (log entry 2). -/
def State.reset : State where
  slots := List.replicate Config.numSlots none
  fault := 0
  hostMem := []
  port := []
  resp := []
  allocDraws := 0

end Sys2Proof.Machine
end

