-- ==== Sys2Proof/Machine/Flags.lean ====
section
/-! DEFINITION. The block has no flags (spec 10_state R34); the status it reports is the FAULT register (R37, R326) and
the status word of a response (30_encoding R94, 60_exceptions R321, R341). -/

namespace Sys2Proof.Machine

/-- The typed errors (R321). -/
inductive ErrorCode where
  | invalidDimension | unsupportedFormat | allocationFailure | lengthMismatch | invalidChannelValue
  | incompatibleOperation
  deriving DecidableEq, Repr

/-- The STATUS value of an error (R321). -/
def ErrorCode.code : ErrorCode → Byte
  | .invalidDimension => 0x01
  | .unsupportedFormat => 0x02
  | .allocationFailure => 0x03
  | .lengthMismatch => 0x04
  | .invalidChannelValue => 0x05
  | .incompatibleOperation => 0x06

/-- The spec's fault causes (R326). -/
inductive FaultCause where
  | illegalCommand | badHandle
  deriving DecidableEq, Repr

/-- The value of FAULT.cause (R37, R326). -/
def FaultCause.code : FaultCause → Byte
  | .illegalCommand => 1
  | .badHandle => 2

/-- A status word: reserved [31:16] = 0, CAUSE [15:8], STATUS [7:0] (R94). -/
def statusWord (status cause : Byte) : Word := (0 : BitVec 16) ++ cause ++ status

/-- The status word OK (R94). -/
def statusOk : Word := statusWord 0x00 0

/-- The status word of an error (R94, R321). -/
def statusError (e : ErrorCode) : Word := statusWord e.code 0

/-- The status word of a faulted answer, CAUSE = FAULT.cause (R94, R327). -/
def statusFaulted (cause : Byte) : Word := statusWord 0x80 cause

/-- The notification word of a teardown: STATUS 0x40, CAUSE 0, the handle in [23:16] (R94, R341). -/
def teardownWord (t : Handle) : Word := (0 : BitVec 8) ++ t ++ (0 : BitVec 8) ++ (0x40 : BitVec 8)

/-- FAULT.cause, bits [7:0] of FAULT (R37). -/
def State.faultCause (s : State) : Byte := s.fault.extractLsb' 0 8

/-- The engine's write of FAULT.cause; bits [31:8] are hardwired 0 (R37, R326). -/
def State.setFaultCause (s : State) (c : FaultCause) : State := { s with fault := c.code.setWidth 32 }

end Sys2Proof.Machine
end

