-- ==== Sys2Proof/Machine/Operands.lean ====
section
/-! DEFINITION. How argument words are read (spec 30_encoding R92, R93, R96, R97, R106), the channels of a pixel
(00_scope R15), the packing of bytes into words (R93, R95), and the format registry a `fmt` argument names
(40_codec R130, 10_state R36, R38). -/

namespace Sys2Proof.Machine

/-- s32(w): the two's complement reading of the whole word (R14, R92). -/
def s32 (w : Word) : Int := w.toInt

/-- u32(w): the unsigned reading of the whole word (R14, R92). -/
def u32 (w : Word) : Nat := w.toNat

/-- 256 times the radius of a q8 argument: the radius is u32(w)/256 exactly (R97). -/
def q8Times256 (w : Word) : Nat := w.toNat

/-- p.r = p[31:24] (R15). -/
def pixR (p : Pixel) : Byte := p.extractLsb' 24 8
/-- p.g = p[23:16] (R15). -/
def pixG (p : Pixel) : Byte := p.extractLsb' 16 8
/-- p.b = p[15:8] (R15). -/
def pixB (p : Pixel) : Byte := p.extractLsb' 8 8
/-- p.a = p[7:0] (R15). -/
def pixA (p : Pixel) : Byte := p.extractLsb' 0 8

/-- pix(r,g,b,a) = r<<24 | g<<16 | b<<8 | a (R15). -/
def pix (r g b a : Byte) : Pixel := r ++ g ++ b ++ a

/-- The transparent pixel, 0x00000000 (R15). -/
def transparent : Pixel := pix 0 0 0 0

/-- Byte k of a word, k = 0 the least significant: bits [8k+7:8k] (R93, R131). -/
def wordByte (w : Word) (k : Nat) : Byte := w.extractLsb' (8 * k) 8

/-- The four bytes of a word, the least significant first (R93). -/
def wordBytes (w : Word) : List Byte := [wordByte w 0, wordByte w 1, wordByte w 2, wordByte w 3]

/-- Words taken apart into bytes, little-endian in each word (R93). -/
def unpackWords (ws : List Word) : List Byte := ws.flatMap wordBytes

/-- Bytes packed into ceil(n/4) words, little-endian in each word, the unused high bytes of the last word 0 (R95). -/
def packWords : List Byte → List Word
  | [] => []
  | [b0] => [(0 : Byte) ++ (0 : Byte) ++ (0 : Byte) ++ b0]
  | [b0, b1] => [(0 : Byte) ++ (0 : Byte) ++ b1 ++ b0]
  | [b0, b1, b2] => [(0 : Byte) ++ b2 ++ b1 ++ b0]
  | b0 :: b1 :: b2 :: b3 :: bs => (b3 ++ b2 ++ b1 ++ b0) :: packWords bs

/-- The formats in the order of their ids (R130). -/
def Format.all : List Format :=
  [.mono1, .gray8, .rgb332, .rgb565, .bgr565, .rgb888, .bgr888, .rgba8888, .argb8888, .abgr8888, .bgra8888]

/-- The registry's id of a format (R130). -/
def Format.id : Format → Nat
  | .mono1 => 0
  | .gray8 => 1
  | .rgb332 => 2
  | .rgb565 => 3
  | .bgr565 => 4
  | .rgb888 => 5
  | .bgr888 => 6
  | .rgba8888 => 7
  | .argb8888 => 8
  | .abgr8888 => 9
  | .bgra8888 => 10

/-- The format an id names; none for an id outside 0..10 (R130). -/
def Format.ofId? (id : Nat) : Option Format := Format.all[id]?

/-- Bits per pixel (R130). -/
def Format.bpp : Format → Nat
  | .mono1 => 1
  | .gray8 | .rgb332 => 8
  | .rgb565 | .bgr565 => 16
  | .rgb888 | .bgr888 => 24
  | .rgba8888 | .argb8888 | .abgr8888 | .bgra8888 => 32

/-- The registry's name of a format, in ASCII (R130). -/
def Format.nameBytes : Format → List Byte
  | .mono1 => [0x6D, 0x6F, 0x6E, 0x6F, 0x31]
  | .gray8 => [0x67, 0x72, 0x61, 0x79, 0x38]
  | .rgb332 => [0x72, 0x67, 0x62, 0x33, 0x33, 0x32]
  | .rgb565 => [0x72, 0x67, 0x62, 0x35, 0x36, 0x35]
  | .bgr565 => [0x62, 0x67, 0x72, 0x35, 0x36, 0x35]
  | .rgb888 => [0x72, 0x67, 0x62, 0x38, 0x38, 0x38]
  | .bgr888 => [0x62, 0x67, 0x72, 0x38, 0x38, 0x38]
  | .rgba8888 => [0x72, 0x67, 0x62, 0x61, 0x38, 0x38, 0x38, 0x38]
  | .argb8888 => [0x61, 0x72, 0x67, 0x62, 0x38, 0x38, 0x38, 0x38]
  | .abgr8888 => [0x61, 0x62, 0x67, 0x72, 0x38, 0x38, 0x38, 0x38]
  | .bgra8888 => [0x62, 0x67, 0x72, 0x61, 0x38, 0x38, 0x38, 0x38]

/-- A name as it travels: its characters and then 0x00 bytes, 12 bytes in three words (R96). -/
def Format.nameWords (f : Format) : List Word :=
  packWords (f.nameBytes ++ List.replicate (12 - f.nameBytes.length) 0)

/-- byte_length(fmt, w, h) = ceil(w * h * bpp(fmt) / 8), exactly (R36). -/
def byteLength (f : Format) (w h : Nat) : Nat := (w * h * f.bpp + 7) / 8

end Sys2Proof.Machine
end

