-- ==== Sys2Proof/Machine/Ops.lean ====
section
/-! DEFINITION. The named operations over memory, slots and ports: byte memory (spec 20_memory R62), the slot table
(10_state R33), responses and errors (00_scope R18, 30_encoding R94), taking a fault (60_exceptions R326, R331), and the
handle checks (R328). -/

namespace Sys2Proof.Machine

/-! ### Byte memory -/

/-- The canonical form: addresses strictly rising, no cell equal to what an unlisted address reads as. -/
abbrev Memory.wf (m : Memory) : Prop :=
  m.Pairwise (fun c d => c.1 < d.1) ∧ ∀ c ∈ m, c.2 ≠ unlistedByte

/-- The byte at an address. -/
def Memory.read : Memory → Nat → Byte
  | [], _ => unlistedByte
  | c :: m, a => if c.1 = a then c.2 else Memory.read m a

/-- A cell put before the first cell of a higher address. -/
def Memory.insertCell (a : Nat) (v : Byte) : Memory → Memory
  | [] => [(a, v)]
  | c :: m => if a < c.1 then (a, v) :: c :: m else c :: Memory.insertCell a v m

/-- The memory after a byte is written: the address's cell is taken out, and a new one put in unless the byte is what an
unlisted address reads as. It keeps the canonical form. -/
def Memory.write (m : Memory) (a : Nat) (v : Byte) : Memory :=
  let others := m.filter fun c => c.1 ≠ a
  if v = unlistedByte then others else Memory.insertCell a v others

/-! ### The slot table and the buffer spaces -/

/-- NUM_SLOTS: the length of the slot table (R33; log entry 1). -/
def State.numSlots (s : State) : Nat := s.slots.length

/-- slot[h], if h < NUM_SLOTS and the slot is Live (R33). -/
def State.slot (s : State) (h : Handle) : Option Drawbuffer := (s.slots[h.toNat]?).join

/-- slot[h] becomes Live with a descriptor, or Empty (R35). -/
def State.setSlot (s : State) (h : Handle) (d : Option Drawbuffer) : State :=
  { s with slots := s.slots.set h.toNat d }

/-- h < NUM_SLOTS and slot[h] is Empty, the handle check of NEW and WRAP (R328). -/
def State.slotEmpty (s : State) (h : Handle) : Bool := s.slots[h.toNat]? == some none

/-- h < NUM_SLOTS, the handle check of CLOSE (R328). -/
def State.slotExists (s : State) (h : Handle) : Bool := h.toNat < s.numSlots

/-- h < NUM_SLOTS and slot[h] is Live, the handle check of every other per-buffer command (R328). -/
def State.slotLive (s : State) (h : Handle) : Bool := (s.slot h).isSome

/-- byte_length(slot[h]) (R36). -/
def Drawbuffer.byteLength (d : Drawbuffer) : Nat := Machine.byteLength d.fmt d.w d.h

/-- The whole region of a Borrowed slot lies in the host's 64-bit address space, as R354 has the host see to; always
so for an Owned one (R60; log entry 7). -/
def Drawbuffer.addressable (d : Drawbuffer) : Bool :=
  match d.backing with
  | .owned _ => true
  | .borrowed base _ => base.toNat + d.byteLength ≤ 2 ^ 64

/-- The byte at an offset of buffer h's space: of its own array, or of host memory at base + offset (R60, R62). An
Empty slot has no space; no command reads one. -/
def State.readByte (s : State) (h : Handle) (off : Nat) : Byte :=
  match s.slot h with
  | none => unlistedByte
  | some d =>
    match d.backing with
    | .owned mem => mem.read off
    | .borrowed base _ => s.hostMem.read (base.toNat + off)

/-- A byte written at an offset of buffer h's space (R62). No command writes outside the space, where this does
nothing. -/
def State.writeByte (s : State) (h : Handle) (off : Nat) (v : Byte) : State :=
  match s.slot h with
  | none => s
  | some d =>
    if off < d.byteLength then
      match d.backing with
      | .owned mem => s.setSlot h (some { d with backing := .owned (mem.write off v) })
      | .borrowed base _ => { s with hostMem := s.hostMem.write (base.toNat + off) v }
    else s

/-- MemRead(h, off, n): the n bytes at off .. off+n-1, byte off first (R62). -/
def State.memRead (s : State) (h : Handle) (off n : Nat) : List Byte :=
  (List.range n).map fun k => s.readByte h (off + k)

/-- MemWrite(h, off, n, v): the bytes of v written to off, off+1, ... in this order (R62). -/
def State.memWrite (s : State) (h : Handle) (off : Nat) : List Byte → State
  | [] => s
  | b :: bs => (s.writeByte h off b).memWrite h (off + 1) bs

/-! ### Responses, errors, faults -/

/-- Words sent on the response port (R90). -/
def State.respond (s : State) (ws : List Word) : State := { s with resp := s.resp ++ ws }

/-- respond(OK, results): the OK status word and the result words; the command ends (R18, R94). -/
def State.respondOk (s : State) (results : List Word) : Result := .next (s.respond (statusOk :: results))

/-- raise Err(E): the command ends with one status word and no state change (R18, R320, R323). -/
def State.raise (s : State) (e : ErrorCode) : Result := .next (s.respond [statusError e])

/-- fault(C), the block's one exception: FAULT.cause is written, one faulted status word is sent, and nothing else
changes (R18, R94, R326, R331). There is no vector, saved state, mode or return (R331, R332); only reset clears
FAULT (`State.assertReset`). -/
def State.takeFault (s : State) (c : FaultCause) : State := (s.setFaultCause c).respond [statusFaulted c.code]

/-- The answer of the faulted state to one word it reads: one faulted status word, nothing else (R327). -/
def State.answerFaulted (s : State) : State := s.respond [statusFaulted s.faultCause]

/-- The words the engine has not read become ws (R90). -/
def State.setPort (s : State) (ws : List Word) : State := { s with port := ws }

/-! ### The handle checks of the meanings -/

/-- The handle check of NEW and WRAP: an Empty slot, else BadHandle (R170, R171, R328). -/
def withEmpty (t : Handle) (s : State) (k : Result) : Result :=
  if s.slotEmpty t then k else .next (s.takeFault .badHandle)

/-- The handle check of CLOSE: a slot of the table, else BadHandle; k is given the descriptor if it is Live (R172,
R328). -/
def withExisting (t : Handle) (s : State) (k : Option Drawbuffer → Result) : Result :=
  if s.slotExists t then k (s.slot t) else .next (s.takeFault .badHandle)

/-- The handle check of every other per-buffer command: a Live slot, else BadHandle (R328). -/
def withLive (t : Handle) (s : State) (k : Drawbuffer → Result) : Result :=
  match s.slot t with
  | some d => k d
  | none => .next (s.takeFault .badHandle)

/-- An access to a buffer's memory: k, but where the region of a Borrowed slot runs past the host address space there is
no memory to access (U17; log entry 7). -/
def onMemory (d : Drawbuffer) (k : Result) : Result :=
  if d.addressable then k else .fault .hostRegionMissing

/-- The format an argument names, else UnsupportedFormat (R130, R321). -/
def withFormat (fmt : U32) (s : State) (k : Format → Result) : Result :=
  match Format.ofId? (u32 fmt) with
  | some f => k f
  | none => s.raise .unsupportedFormat

/-- A width and a height that are both positive, else InvalidDimension (R321, R330). -/
def withDimensions (w h : S32) (s : State) (k : Nat → Nat → Result) : Result :=
  if s32 w ≤ 0 ∨ s32 h ≤ 0 then s.raise .invalidDimension else k (s32 w).toNat (s32 h).toNat

/-- The integers a, a+1, ..., b; none where a > b (R18). -/
def intRange (a b : Int) : List Int := (List.range (b - a + 1).toNat).map fun k : Nat => a + (k : Int)

/-- The points of the box [xa..xb] × [ya..yb] in raster order, y outer and x inner. -/
def rasterBox (xa xb ya yb : Int) : List Point :=
  (intRange ya yb).flatMap fun y => (intRange xa xb).map fun x => (x, y)

/-- Every pixel of a buffer in raster order (R188, R231, R291). -/
def Drawbuffer.pixels (d : Drawbuffer) : List Point := rasterBox 0 (d.w - 1) 0 (d.h - 1)

end Sys2Proof.Machine
end

