-- ==== Sys2Proof/Machine/Blend.lean ====
section
/-! DEFINITION. The blend engine (spec 42_blend R210 to R214). -/

namespace Sys2Proof.Machine

/-- One colour lane: floor((base.c * (255 - a) + paint.c * a) / 255), exactly (R211, R214). -/
def blendLane (base paint a : Byte) : Byte :=
  BitVec.ofNat 8 ((base.toNat * (255 - a.toNat) + paint.toNat * a.toNat) / 255)

/-- blend(base, paint): paint.a is the opacity of the paint, the result's alpha is base's (R211). -/
def blend (base paint : Pixel) : Pixel :=
  let a := pixA paint
  if a = 0 then base
  else if a = 255 then pix (pixR paint) (pixG paint) (pixB paint) (pixA base)
  else
    pix (blendLane (pixR base) (pixR paint) a) (blendLane (pixG base) (pixG paint) a)
      (blendLane (pixB base) (pixB paint) a) (pixA base)

/-- BLEND (R212). -/
def execBlend (base paint : Pixel) (s : State) : Result := s.respondOk [blend base paint]

end Sys2Proof.Machine
end

