-- ==== Sys2Proof/Machine/Codec.lean ====
section
/-! DEFINITION. The pixel format codec (spec 40_codec R131 to R142, R150, R151) and the codec and registry commands
(R160 to R165). A packed value travels in a whole word, its bits at and above bpp zero. -/

namespace Sys2Proof.Machine

/-- enc(fmt, p): the packed value of a pixel, zero-extended to 32 bits (R131 to R137). Channels are truncated to
their top bits, never rounded (R139). -/
def enc (f : Format) (p : Pixel) : Word :=
  let r := pixR p
  let g := pixG p
  let b := pixB p
  let a := pixA p
  match f with
  | .mono1 => (r.extractLsb' 7 1).setWidth 32
  | .gray8 => r.setWidth 32
  | .rgb332 => (r.extractLsb' 5 3 ++ g.extractLsb' 5 3 ++ b.extractLsb' 6 2).setWidth 32
  | .rgb565 => (r.extractLsb' 3 5 ++ g.extractLsb' 2 6 ++ b.extractLsb' 3 5).setWidth 32
  | .bgr565 => (b.extractLsb' 3 5 ++ g.extractLsb' 2 6 ++ r.extractLsb' 3 5).setWidth 32
  | .rgb888 => (b ++ g ++ r).setWidth 32
  | .bgr888 => (r ++ g ++ b).setWidth 32
  | .rgba8888 => a ++ b ++ g ++ r
  | .argb8888 => b ++ g ++ r ++ a
  | .abgr8888 => r ++ g ++ b ++ a
  | .bgra8888 => a ++ r ++ g ++ b

/-- dec(fmt, P): the pixel a packed value stands for (R132 to R137). A field of fewer than 8 bits is shifted to the
top of its channel, with no replication; a format with no alpha reads as opaque. -/
def dec (f : Format) (P : Word) : Pixel :=
  match f with
  | .mono1 => if P.extractLsb' 0 1 = 0 then pix 0 0 0 0 else pix 255 255 255 255
  | .gray8 => let v := P.extractLsb' 0 8; pix v v v v
  | .rgb332 =>
    pix (P.extractLsb' 5 3 ++ (0 : BitVec 5)) (P.extractLsb' 2 3 ++ (0 : BitVec 5))
      (P.extractLsb' 0 2 ++ (0 : BitVec 6)) 255
  | .rgb565 =>
    pix (P.extractLsb' 11 5 ++ (0 : BitVec 3)) (P.extractLsb' 5 6 ++ (0 : BitVec 2))
      (P.extractLsb' 0 5 ++ (0 : BitVec 3)) 255
  | .bgr565 =>
    pix (P.extractLsb' 0 5 ++ (0 : BitVec 3)) (P.extractLsb' 5 6 ++ (0 : BitVec 2))
      (P.extractLsb' 11 5 ++ (0 : BitVec 3)) 255
  | .rgb888 => pix (wordByte P 0) (wordByte P 1) (wordByte P 2) 255
  | .bgr888 => pix (wordByte P 2) (wordByte P 1) (wordByte P 0) 255
  | .rgba8888 => pix (wordByte P 0) (wordByte P 1) (wordByte P 2) (wordByte P 3)
  | .argb8888 => pix (wordByte P 1) (wordByte P 2) (wordByte P 3) (wordByte P 0)
  | .abgr8888 => pix (wordByte P 3) (wordByte P 2) (wordByte P 1) (wordByte P 0)
  | .bgra8888 => pix (wordByte P 2) (wordByte P 1) (wordByte P 0) (wordByte P 3)

/-- quant(fmt, p): the pixel a buffer of this format stores for p (R142). -/
def quant (f : Format) (p : Pixel) : Pixel := dec f (enc f p)

/-- Bytes read as one number, the byte at the lowest offset the least significant (R65, R131). -/
def packedOfBytes (bs : List Byte) : Word :=
  bs.foldr (fun b P => P <<< 8 ||| b.setWidth 32) 0

/-- The pixel index i = y*w + x: rows are contiguous, with no padding (R63). -/
def pixelIndex (w x y : Nat) : Nat := y * w + x

/-- The first byte offset of a pixel and how many bytes it has: i*n and n = bpp/8, or for mono1 the one byte that
holds its bit (R63, R67). -/
def pixelSpan (f : Format) (w x y : Nat) : Nat × Nat :=
  if f = .mono1 then (pixelIndex w x y / 8, 1)
  else (pixelIndex w x y * (f.bpp / 8), f.bpp / 8)

/-- The bit position of a mono1 pixel in its byte: 7 - (i mod 8), the first pixel in the most significant bit (R63). -/
def monoBit (w x y : Nat) : Nat := 7 - pixelIndex w x y % 8

/-- decode_px(fmt, mem, w, x, y) on buffer h's space, with no bounds check (R150). -/
def State.decodePx (s : State) (h : Handle) (f : Format) (w x y : Nat) : Pixel :=
  let span := pixelSpan f w x y
  if f = .mono1 then
    dec f (if (s.readByte h span.1).getLsbD (monoBit w x y) then 1 else 0)
  else dec f (packedOfBytes (s.memRead h span.1 span.2))

/-- A byte with one bit replaced (R67, R151). -/
def replaceBit (v : Byte) (k : Nat) (bit : Bool) : Byte :=
  if bit then v ||| BitVec.twoPow 8 k else v &&& ~~~(BitVec.twoPow 8 k)

/-- encode_px(fmt, mem, w, x, y, p) on buffer h's space, with no bounds check; mono1 reads the byte, replaces the
pixel's bit and writes it back (R67, R151). -/
def State.encodePx (s : State) (h : Handle) (f : Format) (w x y : Nat) (p : Pixel) : State :=
  let span := pixelSpan f w x y
  let P := enc f p
  if f = .mono1 then
    s.memWrite h span.1 [replaceBit (s.readByte h span.1) (monoBit w x y) (P.getLsbD 0)]
  else s.memWrite h span.1 ((List.range span.2).map (wordByte P))

/-- PX_DECODE (R160). -/
def execPxDecode (fmt packed : U32) (s : State) : Result :=
  withFormat fmt s fun f => s.respondOk [dec f (BitVec.ofNat 32 (u32 packed % 2 ^ f.bpp))]

/-- PX_ENCODE (R161). -/
def execPxEncode (fmt : U32) (pixel : Pixel) (s : State) : Result :=
  withFormat fmt s fun f => s.respondOk [enc f pixel]

/-- FMT_BPP (R162). -/
def execFmtBpp (fmt : U32) (s : State) : Result :=
  withFormat fmt s fun f => s.respondOk [BitVec.ofNat 32 f.bpp]

/-- FMT_SIZE (R163): n[31:0], n[63:32]. -/
def execFmtSize (fmt : U32) (w h : S32) (s : State) : Result :=
  withDimensions w h s fun w h =>
    withFormat fmt s fun f =>
      let n := byteLength f w h
      s.respondOk [BitVec.ofNat 32 n, BitVec.ofNat 32 (n / 2 ^ 32)]

/-- FMT_NAME (R164). -/
def execFmtName (fmt : U32) (s : State) : Result :=
  withFormat fmt s fun f => s.respondOk f.nameWords

/-- FMT_ID (R165): all twelve bytes are compared. -/
def execFmtId (name0 name1 name2 : Word) (s : State) : Result :=
  match Format.all.find? fun f => f.nameWords == [name0, name1, name2] with
  | some f => s.respondOk [BitVec.ofNat 32 f.id]
  | none => s.raise .unsupportedFormat

end Sys2Proof.Machine
end

