-- ==== Sys2Proof/Machine/Drawbuffer.lean ====
section
/-! DEFINITION. The bounds-checked accessors (spec 41_drawbuffer R180 to R182), the lifecycle commands (R170 to R172), the
queries (R173 to R176), pixel access (R183, R184), bulk transfer and CLEAR (R186 to R188). -/

namespace Sys2Proof.Machine

/-- 0 ≤ x < w and 0 ≤ y < h (R20 "in bounds"). -/
def Drawbuffer.inBounds (d : Drawbuffer) (x y : Int) : Bool := 0 ≤ x ∧ x < d.w ∧ 0 ≤ y ∧ y < d.h

/-- get_px(h, x, y): the pixel, or the transparent pixel out of bounds (R180). -/
def State.getPx (s : State) (h : Handle) (x y : Int) : Pixel :=
  match s.slot h with
  | some d => if d.inBounds x y then s.decodePx h d.fmt d.w x.toNat y.toNat else transparent
  | none => transparent

/-- set_px(h, x, y, p): the pixel written, or nothing out of bounds (R181). -/
def State.setPx (s : State) (h : Handle) (x y : Int) (p : Pixel) : State :=
  match s.slot h with
  | some d => if d.inBounds x y then s.encodePx h d.fmt d.w x.toNat y.toNat p else s
  | none => s

/-- The draw mode m of R19. -/
inductive DrawMode where
  /-- Opaque. -/
  | overwrite
  /-- AlphaBlend. -/
  | alphaBlend
  deriving DecidableEq, Repr

/-- put(h, x, y, p, m), the single pixel-write step of every drawing command (R182). -/
def State.put (s : State) (h : Handle) (x y : Int) (p : Pixel) : DrawMode → State
  | .overwrite => s.setPx h x y p
  | .alphaBlend => s.setPx h x y (blend (s.getPx h x y) p)

/-- put of one paint at each point of a list, in its order. -/
def State.putAll (s : State) (h : Handle) (pts : List Point) (p : Pixel) (m : DrawMode) : State :=
  pts.foldl (fun s q => s.put h q.1 q.2 p m) s

/-- One anti-aliased drawing pass: at each pixel of the buffer whose coverage-weighted alpha k is positive, the paint's
colour blended with alpha k (R231, R281). -/
def State.blendCoverage (s : State) (h : Handle) (pts : List Point) (color : Pixel) (k : Point → Nat) : State :=
  pts.foldl (fun s q =>
    let kx := k q
    if 0 < kx then
      s.setPx h q.1 q.2
        (blend (s.getPx h q.1 q.2) (pix (pixR color) (pixG color) (pixB color) (BitVec.ofNat 8 kx)))
    else s) s

/-- NEW (R170). The errors leave the slot Empty; the allocator's draw is taken once the dimensions and the format are
good (log entry 2). -/
def execNew (t : Handle) (w h : S32) (fmt : U32) (s : State) : Result :=
  withEmpty t s <|
    withDimensions w h s fun w h =>
      withFormat fmt s fun f =>
        let granted := Config.allocOk s.allocDraws
        let s := { s with allocDraws := s.allocDraws + 1 }
        if Config.memLimit < byteLength f w h ∨ granted = false then s.raise .allocationFailure
        else (s.setSlot t (some ⟨w, h, f, .owned []⟩)).respondOk []

/-- WRAP (R171): base = base_hi ++ base_lo; no byte of the region is read or written. -/
def execWrap (t : Handle) (w h : S32) (fmt baseLo baseHi ctx : U32) (s : State) : Result :=
  withEmpty t s <|
    withDimensions w h s fun w h =>
      withFormat fmt s fun f =>
        if 2 ^ 32 - 1 < byteLength f w h then s.raise .invalidDimension
        else (s.setSlot t (some ⟨w, h, f, .borrowed (baseHi ++ baseLo) ctx⟩)).respondOk []

/-- CLOSE (R172): idempotent; an owned array is released with the descriptor; a Borrowed slot sends Teardown(T, ctx)
before the status word (R341). -/
def execClose (t : Handle) (s : State) : Result :=
  withExisting t s fun
    | none => s.respondOk []
    | some d =>
      match d.backing with
      | .owned _ => (s.setSlot t none).respondOk []
      | .borrowed _ ctx => ((s.respond [teardownWord t, ctx]).setSlot t none).respondOk []

/-- WIDTH (R173). -/
def execWidth (t : Handle) (s : State) : Result := withLive t s fun d => s.respondOk [BitVec.ofNat 32 d.w]

/-- HEIGHT (R174). -/
def execHeight (t : Handle) (s : State) : Result := withLive t s fun d => s.respondOk [BitVec.ofNat 32 d.h]

/-- PIXEL_FORMAT (R175). -/
def execPixelFormat (t : Handle) (s : State) : Result :=
  withLive t s fun d => s.respondOk [BitVec.ofNat 32 d.fmt.id]

/-- BYTE_LENGTH (R176). -/
def execByteLength (t : Handle) (s : State) : Result :=
  withLive t s fun d => s.respondOk [BitVec.ofNat 32 d.byteLength]

/-- GET_PIXEL (R183): out of range is no error (R322). -/
def execGetPixel (t : Handle) (x y : S32) (s : State) : Result :=
  withLive t s fun d => onMemory d (s.respondOk [s.getPx t (s32 x) (s32 y)])

/-- SET_PIXEL (R184): out of range is no error (R322). -/
def execSetPixel (t : Handle) (x y : S32) (pixel : Pixel) (s : State) : Result :=
  withLive t s fun d => onMemory d ((s.setPx t (s32 x) (s32 y) pixel).respondOk [])

/-- DUMP (R186): n and the n bytes of the region in packed words (R95). -/
def execDump (t : Handle) (s : State) : Result :=
  withLive t s fun d =>
    onMemory d (s.respondOk (BitVec.ofNat 32 d.byteLength :: packWords (s.memRead t 0 d.byteLength)))

/-- LOAD (R187): the n bytes written verbatim, or LengthMismatch and nothing written. The data words have left the port
in both cases (R93). -/
def execLoad (t : Handle) (n : U32) (data : List Word) (s : State) : Result :=
  withLive t s fun d =>
    if u32 n ≠ d.byteLength then s.raise .lengthMismatch
    else onMemory d ((s.memWrite t 0 ((unpackWords data).take (u32 n))).respondOk [])

/-- A CLEAR channel argument lies in [0, 255] (R188). -/
def channelInRange (c : S32) : Bool := 0 ≤ s32 c ∧ s32 c ≤ 255

/-- CLEAR (R188): the four channels are checked, then every pixel is set in raster order; no pixel is blended. -/
def execClear (t : Handle) (r g b a : S32) (s : State) : Result :=
  withLive t s fun d =>
    if channelInRange r && channelInRange g && channelInRange b && channelInRange a then
      onMemory d
        ((s.putAll t d.pixels (pix (wordByte r 0) (wordByte g 0) (wordByte b 0) (wordByte a 0)) .overwrite).respondOk
          [])
    else s.raise .invalidChannelValue

end Sys2Proof.Machine
end

