-- ==== Sys2Proof/Machine/Compose.lean ====
section
/-! DEFINITION. The block compositor (spec 46_compose R300 to R303). -/

namespace Sys2Proof.Machine

/-- The alpha policies (R300). -/
inductive AlphaPolicy where
  /-- Opaque. -/
  | overwrite
  /-- SkipTransparent. -/
  | skipTransparent
  /-- AlphaBlend. -/
  | alphaBlend
  deriving DecidableEq, Repr

/-- compose_px(policy, p, X, Y) on target t (R300). -/
def State.composePx (s : State) (t : Handle) (policy : AlphaPolicy) (p : Pixel) (x y : Int) : State :=
  match policy with
  | .overwrite => s.setPx t x y p
  | .skipTransparent => if pixA p ≠ 0 then s.setPx t x y p else s
  | .alphaBlend => s.setPx t x y (blend (s.getPx t x y) p)

/-- One source pixel's turn of R301's loop: it is read, then its scale_x × scale_y block is written, v outer, u inner. -/
def State.composeBlock (s : State) (t src : Handle) (policy : AlphaPolicy) (tx ty sx sy scaleX scaleY : Int)
    (q : Point) : State :=
  let p := s.getPx src (sx + q.1) (sy + q.2)
  (rasterBox 0 (scaleX - 1) 0 (scaleY - 1)).foldl
    (fun s uv => s.composePx t policy p (tx + q.1 * scaleX + uv.1) (ty + q.2 * scaleY + uv.2)) s

/-- R301's loop over the source region, j outer, i inner. -/
def State.composeAll (s : State) (t src : Handle) (policy : AlphaPolicy) (tx ty sx sy w h scaleX scaleY : Int) :
    State :=
  (rasterBox 0 (w - 1) 0 (h - 1)).foldl (fun s q => s.composeBlock t src policy tx ty sx sy scaleX scaleY q) s

/-- COMPOSE under a policy: T is checked before S, a scale below 1 is InvalidDimension, and AlphaBlend with a scale above
1 is IncompatibleOperation (R301, R328, R330). -/
def compose (t src : Handle) (policy : AlphaPolicy) (tx ty sx sy w h scaleX scaleY : S32) (s : State) : Result :=
  withLive t s fun dt =>
    withLive src s fun ds =>
      if s32 scaleX < 1 ∨ s32 scaleY < 1 then s.raise .invalidDimension
      else if policy = .alphaBlend ∧ (1 < s32 scaleX ∨ 1 < s32 scaleY) then s.raise .incompatibleOperation
      else
        onMemory dt <| onMemory ds <|
          (s.composeAll t src policy (s32 tx) (s32 ty) (s32 sx) (s32 sy) (s32 w) (s32 h) (s32 scaleX)
            (s32 scaleY)).respondOk []

/-- COMPOSE.OP (R301). -/
def execComposeOp (t src : Handle) (tx ty sx sy w h scaleX scaleY : S32) (s : State) : Result :=
  compose t src .overwrite tx ty sx sy w h scaleX scaleY s

/-- COMPOSE.SKIP (R301). -/
def execComposeSkip (t src : Handle) (tx ty sx sy w h scaleX scaleY : S32) (s : State) : Result :=
  compose t src .skipTransparent tx ty sx sy w h scaleX scaleY s

/-- COMPOSE.BLEND (R301). -/
def execComposeBlend (t src : Handle) (tx ty sx sy w h scaleX scaleY : S32) (s : State) : Result :=
  compose t src .alphaBlend tx ty sx sy w h scaleX scaleY s

end Sys2Proof.Machine
end

