-- ==== Sys2Proof/Machine/Dither.lean ====
section
/-! DEFINITION. Floyd–Steinberg dithering (spec 45_dither R290 to R294). -/

namespace Sys2Proof.Machine

/-- The channel masks (mr, mg, mb). -/
structure Masks where
  mr : Byte
  mg : Byte
  mb : Byte
  deriving DecidableEq, Repr

/-- The standard masks of a format (R290). -/
def Format.standardMasks : Format → Masks
  | .mono1 => ⟨0x80, 0x80, 0x80⟩
  | .gray8 => ⟨0xFF, 0xFF, 0xFF⟩
  | .rgb332 => ⟨0xE0, 0xE0, 0xC0⟩
  | .rgb565 | .bgr565 => ⟨0xF8, 0xFC, 0xF8⟩
  | .rgb888 | .bgr888 | .rgba8888 | .argb8888 | .abgr8888 | .bgra8888 => ⟨0xFF, 0xFF, 0xFF⟩

/-- The masks of a mask word: arg[31:24], arg[23:16], arg[15:8]; arg[7:0] is ignored (R92, R291). -/
def masksOf (arg : Mask) : Masks := ⟨pixR arg, pixG arg, pixB arg⟩

/-- The four neighbours a remainder is diffused to, as (dx, dy, weight in sixteenths), in the order of R291. -/
def ditherKernel : List (Int × Int × Nat) := [(1, 0, 7), (-1, 1, 3), (0, 1, 5), (1, 1, 1)]

/-- A neighbour's channel after a share of the remainder: min(255, n + floor(e * wt / 16)) (R291, R292). -/
def addShare (n : Byte) (e wt : Nat) : Byte := BitVec.ofNat 8 (min 255 (n.toNat + e * wt / 16))

/-- One share put on the neighbour at (x, y); out of bounds it is lost (R291, R293). -/
def State.diffuse (s : State) (t : Handle) (x y : Int) (er eg eb wt : Nat) : State :=
  let n := s.getPx t x y
  s.setPx t x y (pix (addShare (pixR n) er wt) (addShare (pixG n) eg wt) (addShare (pixB n) eb wt) (pixA n))

/-- The turn of R291's loop at one pixel: quantise it, then diffuse what the masks cut off. -/
def State.ditherPx (s : State) (t : Handle) (m : Masks) (q : Point) : State :=
  let p := s.getPx t q.1 q.2
  let pr := pixR p &&& m.mr
  let pg := pixG p &&& m.mg
  let pb := pixB p &&& m.mb
  let er := (pixR p).toNat - pr.toNat
  let eg := (pixG p).toNat - pg.toNat
  let eb := (pixB p).toNat - pb.toNat
  ditherKernel.foldl (fun s k => s.diffuse t (q.1 + k.1) (q.2 + k.2.1) er eg eb k.2.2)
    (s.setPx t q.1 q.2 (pix pr pg pb (pixA p)))

/-- A buffer dithered with masks, in raster order (R291). -/
def State.ditherAll (s : State) (t : Handle) (pts : List Point) (m : Masks) : State :=
  pts.foldl (fun s q => s.ditherPx t m q) s

/-- DITHER (R291, MODE 0): the argument is a mask word. -/
def execDither (t : Handle) (mask : Mask) (s : State) : Result :=
  withLive t s fun d => onMemory d ((s.ditherAll t d.pixels (masksOf mask)).respondOk [])

/-- DITHER.D (R291, MODE 1): the argument is a format id whose standard masks are used. -/
def execDitherD (t : Handle) (fmt : U32) (s : State) : Result :=
  withLive t s fun d =>
    withFormat fmt s fun f => onMemory d ((s.ditherAll t d.pixels f.standardMasks).respondOk [])

end Sys2Proof.Machine
end

