-- ==== Sys2Proof/Machine/Lines.lean ====
section
/-! DEFINITION. The line rasterizers (spec 43_raster_lines): the exact line (R220, R221) and the anti-aliased line (R230
to R232). All arithmetic is exact (R13). -/

namespace Sys2Proof.Machine

/-- The loop of R220 from (x, y) with error term err; it ends at (x1, y1). The number bounds the turns: each turn moves
x or y one step towards its end, so dx + |dy| turns reach it. -/
def bresenhamWalk (x1 y1 dx dy sx sy : Int) : Nat → Int → Int → Int → List Point
  | 0, x, y, _ => [(x, y)]
  | fuel + 1, x, y, err =>
    if x = x1 ∧ y = y1 then [(x, y)]
    else
      let e2 := 2 * err
      let stepX := dy ≤ e2
      let stepY := e2 ≤ dx
      (x, y) :: bresenhamWalk x1 y1 dx dy sx sy fuel (if stepX then x + sx else x) (if stepY then y + sy else y)
        (err + (if stepX then dy else 0) + (if stepY then dx else 0))

/-- bresenham(x0, y0, x1, y1): the pixel sequence of the exact line, both endpoints included (R220). -/
def bresenham (x0 y0 x1 y1 : Int) : List Point :=
  let dx : Int := (x1 - x0).natAbs
  let dy : Int := -((y1 - y0).natAbs : Int)
  let sx := if x0 < x1 then 1 else -1
  let sy := if y0 < y1 then 1 else -1
  bresenhamWalk x1 y1 dx dy sx sy (dx - dy).toNat x0 y0 (dx + dy)

/-- The exact line drawn in a mode, clipped pixel by pixel (R221). -/
def drawLine (t : Handle) (x0 y0 x1 y1 : S32) (color : Pixel) (m : DrawMode) (s : State) : Result :=
  withLive t s fun d =>
    onMemory d ((s.putAll t (bresenham (s32 x0) (s32 y0) (s32 x1) (s32 y1)) color m).respondOk [])

/-- LINE (R221). -/
def execLine (t : Handle) (x0 y0 x1 y1 : S32) (color : Pixel) (s : State) : Result :=
  drawLine t x0 y0 x1 y1 color .overwrite s

/-- LINE.B (R221). -/
def execLineB (t : Handle) (x0 y0 x1 y1 : S32) (color : Pixel) (s : State) : Result :=
  drawLine t x0 y0 x1 y1 color .alphaBlend s

/-- dist2_seg(px, py): the squared distance of a pixel's sample point to the segment, an exact rational (R230). -/
def dist2Seg (x0 y0 x1 y1 px py : Int) : Rat :=
  let dx := x1 - x0
  let dy := y1 - y0
  let l2 := dx * dx + dy * dy
  if l2 = 0 then ((px - x0) ^ 2 + (py - y0) ^ 2 : Int)
  else
    let t : Rat := max 0 (min (mkRat ((px - x0) * dx + (py - y0) * dy) l2.toNat) 1)
    (((px - x0 : Int) : Rat) - t * (dx : Int)) ^ 2 + (((py - y0 : Int) : Rat) - t * (dy : Int)) ^ 2

/-- max of the j in 0..A with j = 0 or ok j (R232, R280). -/
def largestUpTo (ok : Nat → Bool) : Nat → Nat
  | 0 => 0
  | j + 1 => if ok (j + 1) then j + 1 else largestUpTo ok j

/-- The coverage-weighted alpha k of a capsule or disc, exactly: A = paint.a, r = radius/256, sq the squared distance to
the segment or the centre (R232, R280 fill). The two tests of R232 are multiplied out by 256 and by sq's denominator:
A*(0.5 + r) - j >= 0 and A*A*sq <= (A*(0.5 + r) - j)^2. -/
def coverageFill (alpha radius256 : Nat) (sq : Rat) : Nat :=
  let top : Int := alpha * (128 + radius256)
  let lhs : Int := alpha * alpha * sq.num * 65536
  largestUpTo (fun j => 0 ≤ top - 256 * j ∧ lhs ≤ (top - 256 * j) ^ 2 * sq.den) alpha

/-- LINE_AA (R231): every buffer pixel with k > 0 is blended with alpha k. -/
def execLineAa (t : Handle) (x0 y0 x1 y1 : S32) (radius : Q8) (color : Pixel) (s : State) : Result :=
  withLive t s fun d =>
    onMemory d
      ((s.blendCoverage t d.pixels color fun q =>
          coverageFill (pixA color).toNat (q8Times256 radius)
            (dist2Seg (s32 x0) (s32 y0) (s32 x1) (s32 y1) q.1 q.2)).respondOk [])

end Sys2Proof.Machine
end

