-- ==== Sys2Proof/Machine/Shapes.lean ====
section
/-! DEFINITION. The rectangle (spec 44_raster_shapes R250, R251), triangle (R260, R261), integer circle (R270, R271) and
anti-aliased circle (R280, R281) rasterizers. All arithmetic is exact (R13). -/

namespace Sys2Proof.Machine

/-- The shape bit of MODE: fill or outline (R98). -/
inductive Shape where
  | fill | outline
  deriving DecidableEq, Repr

/-! ### Rectangle -/

/-- rect_box(x, y, w, h): the rectangle clamped to a W × H buffer, as half-open bounds xa, xb, ya, yb (R250). -/
def rectBox (W H : Nat) (x y w h : Int) : Int × Int × Int × Int := (max x 0, min (x + w) W, max y 0, min (y + h) H)

/-- The pixels of rect_fill or rect_outline, in the order R251 draws them; the outline is the perimeter of the clamped
box (R250). -/
def rectPoints (W H : Nat) (x y w h : Int) (shape : Shape) : List Point :=
  let (xa, xb, ya, yb) := rectBox W H x y w h
  (rasterBox xa (xb - 1) ya (yb - 1)).filter fun q =>
    shape == .fill || (q.1 == xa || q.1 == xb - 1 || q.2 == ya || q.2 == yb - 1)

/-- A rectangle drawn in a shape and a mode (R251). -/
def drawRect (t : Handle) (x y w h : S32) (color : Pixel) (shape : Shape) (m : DrawMode) (s : State) : Result :=
  withLive t s fun d =>
    onMemory d ((s.putAll t (rectPoints d.w d.h (s32 x) (s32 y) (s32 w) (s32 h) shape) color m).respondOk [])

/-- RECT.F (R251). -/
def execRectF (t : Handle) (x y w h : S32) (color : Pixel) (s : State) : Result :=
  drawRect t x y w h color .fill .overwrite s

/-- RECT.FB (R251). -/
def execRectFB (t : Handle) (x y w h : S32) (color : Pixel) (s : State) : Result :=
  drawRect t x y w h color .fill .alphaBlend s

/-- RECT.O (R251). -/
def execRectO (t : Handle) (x y w h : S32) (color : Pixel) (s : State) : Result :=
  drawRect t x y w h color .outline .overwrite s

/-- RECT.OB (R251). -/
def execRectOB (t : Handle) (x y w h : S32) (color : Pixel) (s : State) : Result :=
  drawRect t x y w h color .outline .alphaBlend s

/-! ### Triangle -/

/-- A vertex of a triangle or the split point on its long edge: x exact, y an integer (R260). -/
structure Vertex where
  x : Rat
  y : Int
  deriving DecidableEq, Repr

/-- A span (y, xl, xr): the pixels xl..xr of row y, both ends included (R260). -/
structure Span where
  y : Int
  xl : Int
  xr : Int
  deriving DecidableEq, Repr

/-- edge_x(P, Q, y): where the edge from P to Q crosses row y, P.y ≠ Q.y (R260). -/
def edgeX (P Q : Vertex) (y : Int) : Rat := P.x + (y - P.y : Int) * (Q.x - P.x) / ((Q.y - P.y : Int) : Rat)

/-- The spans between two edges P–Q and P'–Q' on rows ya..yb (R260). -/
def edgeSpans (P Q P' Q' : Vertex) (ya yb : Int) : List Span :=
  (intRange ya yb).map fun y =>
    let e1 := edgeX P Q y
    let e2 := edgeX P' Q' y
    ⟨y, (min e1 e2).floor, (max e1 e2).floor⟩

/-- flat_bottom(Tp, B1, B2), Tp.y < B1.y = B2.y (R260). -/
def flatBottom (tp b1 b2 : Vertex) : List Span := edgeSpans tp b1 tp b2 tp.y b1.y

/-- flat_top(T1, T2, Bt), T1.y = T2.y < Bt.y (R260). -/
def flatTop (t1 t2 bt : Vertex) : List Span := edgeSpans t1 bt t2 bt t1.y bt.y

/-- The stable sort of three vertices by y ascending (R260). -/
def sortByY (v0 v1 v2 : Point) : Point × Point × Point :=
  let (p, q) := if v1.2 < v0.2 then (v1, v0) else (v0, v1)
  if v2.2 < p.2 then (v2, p, q) else if v2.2 < q.2 then (p, v2, q) else (p, q, v2)

/-- A point of the integer plane as a vertex. -/
def vertexOf (p : Point) : Vertex := ⟨p.1, p.2⟩

/-- tri_spans(v0, v1, v2) on a buffer of height H: culled, one row, flat bottom, flat top, or split at the middle
vertex's row, which both halves then cover (R260, R261). -/
def triSpans (H : Nat) (v0 v1 v2 : Point) : List Span :=
  let (a, b, c) := sortByY v0 v1 v2
  if c.2 < 0 ∨ (H : Int) ≤ a.2 then []
  else if a.2 = c.2 then [⟨a.2, min (min a.1 b.1) c.1, max (max a.1 b.1) c.1⟩]
  else if b.2 = c.2 then flatBottom (vertexOf a) (vertexOf b) (vertexOf c)
  else if a.2 = b.2 then flatTop (vertexOf a) (vertexOf b) (vertexOf c)
  else
    let m : Vertex := ⟨edgeX (vertexOf a) (vertexOf c) b.2, b.2⟩
    flatBottom (vertexOf a) (vertexOf b) m ++ flatTop (vertexOf b) m (vertexOf c)

/-- The pixels of a span, left to right (R261). -/
def Span.points (sp : Span) : List Point := (intRange sp.xl sp.xr).map fun x => (x, sp.y)

/-- The pixels of a triangle in the order R261 draws them; a pixel of the split row stands twice. -/
def trianglePoints (H : Nat) (v0 v1 v2 : Point) : List Point := (triSpans H v0 v1 v2).flatMap Span.points

/-- A triangle drawn in a mode (R261). -/
def drawTriangle (t : Handle) (x0 y0 x1 y1 x2 y2 : S32) (color : Pixel) (m : DrawMode) (s : State) : Result :=
  withLive t s fun d =>
    onMemory d
      ((s.putAll t (trianglePoints d.h (s32 x0, s32 y0) (s32 x1, s32 y1) (s32 x2, s32 y2)) color m).respondOk [])

/-- TRIANGLE (R261). -/
def execTriangle (t : Handle) (x0 y0 x1 y1 x2 y2 : S32) (color : Pixel) (s : State) : Result :=
  drawTriangle t x0 y0 x1 y1 x2 y2 color .overwrite s

/-- TRIANGLE.B (R261). -/
def execTriangleB (t : Handle) (x0 y0 x1 y1 x2 y2 : S32) (color : Pixel) (s : State) : Result :=
  drawTriangle t x0 y0 x1 y1 x2 y2 color .alphaBlend s

/-! ### Integer circle -/

/-- The eight symmetric points of one turn of the midpoint loop (R270). -/
def circleOctants (cx cy x y : Int) : List Point :=
  [(cx + x, cy + y), (cx + y, cy + x), (cx - y, cy + x), (cx - x, cy + y),
   (cx - x, cy - y), (cx - y, cy - x), (cx + y, cy - x), (cx + x, cy - y)]

/-- The midpoint loop of R270 from (x, y) with error term err, each turn's points in front of the later turns'. The
number bounds the turns: y grows by 1 a turn and x never grows, so r + 1 turns end it. -/
def midpointWalk (cx cy : Int) : Nat → Int → Int → Int → List Point
  | 0, _, _, _ => []
  | fuel + 1, x, y, err =>
    if x < y then []
    else
      let y' := y + 1
      circleOctants cx cy x y ++
        (if err < 0 then midpointWalk cx cy fuel x y' (err + 2 * y' + 1)
         else midpointWalk cx cy fuel (x - 1) y' (err + 2 * (y' - (x - 1)) + 1))

/-- A point put into a set kept as a list in raster order with no repeats (R270 "each pixel once", R271). -/
def rasterInsert (p : Point) : List Point → List Point
  | [] => [p]
  | q :: qs =>
    if p = q then q :: qs
    else if p.2 < q.2 ∨ (p.2 = q.2 ∧ p.1 < q.1) then p :: q :: qs
    else q :: rasterInsert p qs

/-- circle_outline(cx, cy, r), in raster order (R270, R271). -/
def circleOutline (cx cy r : Int) : List Point :=
  if r < 0 then [] else (midpointWalk cx cy (r.toNat + 1) r 0 (1 - r)).foldr rasterInsert []

/-- circle_fill(cx, cy, r), in raster order (R270, R271). -/
def circleFill (cx cy r : Int) : List Point :=
  if r < 0 then []
  else (rasterBox (cx - r) (cx + r) (cy - r) (cy + r)).filter fun q => (q.1 - cx) ^ 2 + (q.2 - cy) ^ 2 ≤ r ^ 2

/-- The pixels of a circle in the order R271 draws them. -/
def circlePoints (cx cy r : Int) : Shape → List Point
  | .fill => circleFill cx cy r
  | .outline => circleOutline cx cy r

/-- An integer circle drawn in a shape and a mode (R271). -/
def drawCircle (t : Handle) (cx cy r : S32) (color : Pixel) (shape : Shape) (m : DrawMode) (s : State) : Result :=
  withLive t s fun d =>
    onMemory d ((s.putAll t (circlePoints (s32 cx) (s32 cy) (s32 r) shape) color m).respondOk [])

/-- CIRCLE.F (R271). -/
def execCircleF (t : Handle) (cx cy r : S32) (color : Pixel) (s : State) : Result :=
  drawCircle t cx cy r color .fill .overwrite s

/-- CIRCLE.FB (R271). -/
def execCircleFB (t : Handle) (cx cy r : S32) (color : Pixel) (s : State) : Result :=
  drawCircle t cx cy r color .fill .alphaBlend s

/-- CIRCLE.O (R271). -/
def execCircleO (t : Handle) (cx cy r : S32) (color : Pixel) (s : State) : Result :=
  drawCircle t cx cy r color .outline .overwrite s

/-- CIRCLE.OB (R271). -/
def execCircleOB (t : Handle) (cx cy r : S32) (color : Pixel) (s : State) : Result :=
  drawCircle t cx cy r color .outline .alphaBlend s

/-! ### Anti-aliased circle -/

/-- The squared distance of a pixel's sample point to the centre, SQ of R280. -/
def dist2Centre (cx cy px py : Int) : Int := (px - cx) ^ 2 + (py - cy) ^ 2

/-- The ring's coverage-weighted alpha k, exactly (R280 ring): with M = A/2 - j, the tests M >= 0,
A*A*SQ <= (A*r + M)^2 and (A*r - M <= 0 or A*A*SQ >= (A*r - M)^2), multiplied out by 256. -/
def coverageRing (alpha radius256 : Nat) (sq : Int) : Nat :=
  let ar : Int := alpha * radius256
  let lhs : Int := alpha * alpha * sq * 65536
  largestUpTo (fun j =>
    let m : Int := 128 * alpha - 256 * j
    0 ≤ m ∧ lhs ≤ (ar + m) ^ 2 ∧ (ar - m ≤ 0 ∨ (ar - m) ^ 2 ≤ lhs)) alpha

/-- The coverage-weighted alpha of a disc or a ring at a pixel (R280). -/
def circleCoverage (cx cy : Int) (radius256 alpha : Nat) (shape : Shape) (q : Point) : Nat :=
  match shape with
  | .fill => coverageFill alpha radius256 (dist2Centre cx cy q.1 q.2)
  | .outline => coverageRing alpha radius256 (dist2Centre cx cy q.1 q.2)

/-- An anti-aliased circle drawn in a shape; it always blends (R281). -/
def drawCircleAa (t : Handle) (cx cy : S32) (radius : Q8) (color : Pixel) (shape : Shape) (s : State) : Result :=
  withLive t s fun d =>
    onMemory d
      ((s.blendCoverage t d.pixels color
          (circleCoverage (s32 cx) (s32 cy) (q8Times256 radius) (pixA color).toNat shape)).respondOk [])

/-- CIRCLE_AA.F (R281). -/
def execCircleAaF (t : Handle) (cx cy : S32) (radius : Q8) (color : Pixel) (s : State) : Result :=
  drawCircleAa t cx cy radius color .fill s

/-- CIRCLE_AA.O (R281). -/
def execCircleAaO (t : Handle) (cx cy : S32) (radius : Q8) (color : Pixel) (s : State) : Result :=
  drawCircleAa t cx cy radius color .outline s

end Sys2Proof.Machine
end

