-- ==== Sys2Proof/Machine/Dispatch.lean ====
section
/-! DEFINITION. One arm per command. `exec i s` performs command i in a state whose port begins with the word after the
command, when FAULT.cause is 0; the handle check of R328 is part of each meaning. -/

namespace Sys2Proof.Machine

def exec (i : Instr) (s : State) : Host.Outcome State Fault Refusal :=
  match i with
  | .pxDecode fmt packed => Sys2Proof.Machine.execPxDecode fmt packed s
  | .pxEncode fmt pixel => Sys2Proof.Machine.execPxEncode fmt pixel s
  | .fmtBpp fmt => Sys2Proof.Machine.execFmtBpp fmt s
  | .fmtSize fmt w h => Sys2Proof.Machine.execFmtSize fmt w h s
  | .fmtName fmt => Sys2Proof.Machine.execFmtName fmt s
  | .fmtId name0 name1 name2 => Sys2Proof.Machine.execFmtId name0 name1 name2 s
  | .new t w h fmt => Sys2Proof.Machine.execNew t w h fmt s
  | .wrap t w h fmt baseLo baseHi ctx => Sys2Proof.Machine.execWrap t w h fmt baseLo baseHi ctx s
  | .close t => Sys2Proof.Machine.execClose t s
  | .width t => Sys2Proof.Machine.execWidth t s
  | .height t => Sys2Proof.Machine.execHeight t s
  | .pixelFormat t => Sys2Proof.Machine.execPixelFormat t s
  | .byteLength t => Sys2Proof.Machine.execByteLength t s
  | .getPixel t x y => Sys2Proof.Machine.execGetPixel t x y s
  | .setPixel t x y pixel => Sys2Proof.Machine.execSetPixel t x y pixel s
  | .dump t => Sys2Proof.Machine.execDump t s
  | .load t n data => Sys2Proof.Machine.execLoad t n data s
  | .clear t r g b a => Sys2Proof.Machine.execClear t r g b a s
  | .blend base paint => Sys2Proof.Machine.execBlend base paint s
  | .line t x0 y0 x1 y1 color => Sys2Proof.Machine.execLine t x0 y0 x1 y1 color s
  | .lineB t x0 y0 x1 y1 color => Sys2Proof.Machine.execLineB t x0 y0 x1 y1 color s
  | .lineAa t x0 y0 x1 y1 radius color => Sys2Proof.Machine.execLineAa t x0 y0 x1 y1 radius color s
  | .rectF t x y w h color => Sys2Proof.Machine.execRectF t x y w h color s
  | .rectFB t x y w h color => Sys2Proof.Machine.execRectFB t x y w h color s
  | .rectO t x y w h color => Sys2Proof.Machine.execRectO t x y w h color s
  | .rectOB t x y w h color => Sys2Proof.Machine.execRectOB t x y w h color s
  | .triangle t x0 y0 x1 y1 x2 y2 color => Sys2Proof.Machine.execTriangle t x0 y0 x1 y1 x2 y2 color s
  | .triangleB t x0 y0 x1 y1 x2 y2 color => Sys2Proof.Machine.execTriangleB t x0 y0 x1 y1 x2 y2 color s
  | .circleF t cx cy r color => Sys2Proof.Machine.execCircleF t cx cy r color s
  | .circleFB t cx cy r color => Sys2Proof.Machine.execCircleFB t cx cy r color s
  | .circleO t cx cy r color => Sys2Proof.Machine.execCircleO t cx cy r color s
  | .circleOB t cx cy r color => Sys2Proof.Machine.execCircleOB t cx cy r color s
  | .circleAaF t cx cy radius color => Sys2Proof.Machine.execCircleAaF t cx cy radius color s
  | .circleAaO t cx cy radius color => Sys2Proof.Machine.execCircleAaO t cx cy radius color s
  | .dither t mask => Sys2Proof.Machine.execDither t mask s
  | .ditherD t fmt => Sys2Proof.Machine.execDitherD t fmt s
  | .composeOp t src tx ty sx sy w h scaleX scaleY => Sys2Proof.Machine.execComposeOp t src tx ty sx sy w h scaleX scaleY s
  | .composeSkip t src tx ty sx sy w h scaleX scaleY => Sys2Proof.Machine.execComposeSkip t src tx ty sx sy w h scaleX scaleY s
  | .composeBlend t src tx ty sx sy w h scaleX scaleY => Sys2Proof.Machine.execComposeBlend t src tx ty sx sy w h scaleX scaleY s

end Sys2Proof.Machine
end

