-- ==== Sys2Proof/Machine/Port.lean ====
section
/-! DEFINITION. Reading a command from the port (spec 30_encoding R90, R100; 60_exceptions R327, R328, R330). -/

namespace Sys2Proof.Machine

/-- The handle checks of a header, made before any argument word is read (R100, R328); T before S (R330). -/
def State.handlesOk (s : State) (hd : Header) : Bool :=
  match hd.op with
  | .pxDecode | .pxEncode | .fmtBpp | .fmtSize | .fmtName | .fmtId | .blend => true
  | .new | .wrap => s.slotEmpty hd.t
  | .close => s.slotExists hd.t
  | .width | .height | .pixelFormat | .byteLength | .getPixel | .setPixel | .dump | .load | .clear => s.slotLive hd.t
  | .line | .lineB | .lineAa | .rectF | .rectFB | .rectO | .rectOB | .triangle | .triangleB => s.slotLive hd.t
  | .circleF | .circleFB | .circleO | .circleOB | .circleAaF | .circleAaO | .dither | .ditherD => s.slotLive hd.t
  | .composeOp | .composeSkip | .composeBlend => s.slotLive hd.t && s.slotLive hd.s

/-- What the engine finds at the command port. -/
inductive Fetched where
  /-- No word: the port is idle (R351). -/
  | idle
  /-- FAULT.cause is not 0: the next word is read and answered, and `rest` is left (R327). -/
  | answer (rest : List Word)
  /-- The header faults; it alone is read, and `rest` is left (R100). -/
  | trap (cause : FaultCause) (rest : List Word)
  /-- The header passes and words of the command are missing (U15). -/
  | waiting
  /-- A whole command, and the words after it. -/
  | command (i : Instr) (rest : List Word)
  deriving DecidableEq, Repr

/-- The engine's next move, in the priority of R330: the faulted state, IllegalCommand, BadHandle, and only then the
argument words (R100). -/
def State.fetch (s : State) : Fetched :=
  match s.port with
  | [] => .idle
  | hdr :: rest =>
    if s.faultCause ≠ 0 then .answer rest
    else
      match decodeHeader hdr with
      | none => .trap .illegalCommand rest
      | some hd =>
        if s.handlesOk hd then
          match decode (hdr :: rest) with
          | .ok (i, rest') => .command i rest'
          | .error _ => .waiting
        else .trap .badHandle rest

/-- The port with the words of an instruction, numbered as the opcode table numbers them, put in front (log entry 9). -/
def State.presentTableWord (s : State) (nbits w : Nat) : State := s.setPort (tableWords nbits w ++ s.port)

end Sys2Proof.Machine
end

