-- ==== Sys2Proof/Machine/Step.lean ====
section
/-! DEFINITION. One step of the engine: one command, or one word of the faulted state (spec 30_encoding R90, R100;
60_exceptions R327; 70_reset_and_hazards R370). -/

namespace Sys2Proof.Machine

/-- One step. With no word presented the engine stays as it is (R351; log entry 5); with words of a command missing it
is stuck (U15; log entry 6). -/
def step (s : State) : Host.Outcome State Fault Refusal :=
  match s.fetch with
  | .idle => .next s
  | .answer rest => .next (s.setPort rest).answerFaulted
  | .trap cause rest => .next ((s.setPort rest).takeFault cause)
  | .waiting => .fault .awaitingArguments
  | .command i rest => exec i (s.setPort rest)

/-- s with an instruction, numbered as the opcode table numbers it, as the next words of the command port. -/
def State.withFetchWord (s : State) (nbits w : Nat) : State := s.presentTableWord nbits w

end Sys2Proof.Machine
end

