-- ==== Sys2Proof/Machine/HostMoves.lean ====
section
/-! DEFINITION. What the host may do between commands (spec 60_exceptions R340, 70_reset_and_hazards R350 to R352):
operations on the state, none of them a step of the engine. A host that breaks a duty has no move here (R360). -/

namespace Sys2Proof.Machine

/-- The host presents words on the command port (R90, R340). -/
def State.present (s : State) (ws : List Word) : State := { s with port := s.port ++ ws }

/-- The host reads the response port and empties it (R340). -/
def State.takeResponses (s : State) : List Word × State := (s.resp, { s with resp := [] })

/-- The host writes a byte of its own memory between commands (R73, R340). -/
def State.hostWrite (s : State) (a : HostAddr) (v : Byte) : State :=
  { s with hostMem := s.hostMem.write a.toNat v }

/-- The host reads a byte of its own memory between commands (R73, R340). -/
def State.hostRead (s : State) (a : HostAddr) : Byte := s.hostMem.read a.toNat

/-- The host asserts reset between commands (R350, R351): the reset state, but host memory is not touched and no
teardown is sent; a partially received command is discarded. The model's own draw counter goes on (log entry 2). -/
def State.assertReset (s : State) : State :=
  { slots := List.replicate s.numSlots none
    fault := 0
    hostMem := s.hostMem
    port := []
    resp := []
    allocDraws := s.allocDraws }

end Sys2Proof.Machine
end

