-- ==== Sys2Proof/Safety.lean ====
section
/-! DEFINITION. What a safe run is, the invariant of the machine, and the terms the statements are written in: the legal
headers and handles as the spec's tables list them, and what a command may change. -/

namespace Sys2Proof.Machine

/-! ### Safe runs -/

/-- FAULT.cause is 0: the state is not faulted (spec 60_exceptions R327). -/
def State.unfaulted (s : State) : Prop := s.faultCause = 0

/-- A step of a run the spec says something of: it answers a next state that is not faulted (R342, D42). -/
def State.stepsSafely (s : State) : Prop := ∃ s', step s = .next s' ∧ s'.unfaulted

/-! ### The invariant -/

/-- What a Live slot always satisfies (R33, R36), and the canonical form of its owned array. -/
def Drawbuffer.legal (d : Drawbuffer) : Prop :=
  1 ≤ d.w ∧ d.w ≤ 2 ^ 31 - 1 ∧ 1 ≤ d.h ∧ d.h ≤ 2 ^ 31 - 1 ∧ d.byteLength ≤ 2 ^ 32 - 1 ∧
    match d.backing with
    | .owned mem => d.byteLength ≤ Config.memLimit ∧ mem.wf ∧ ∀ c ∈ mem, c.1 < d.byteLength
    | .borrowed _ _ => True

/-- The invariant every step keeps: NUM_SLOTS in its range (R11), every Live slot legal (R36), FAULT one of its three
values with the reserved bits 0 (R37), host memory in its canonical form and below 2^64 (R60). -/
def State.Inv (s : State) : Prop :=
  1 ≤ s.slots.length ∧ s.slots.length ≤ 256 ∧ (∀ d, some d ∈ s.slots → d.legal) ∧
    (s.fault = 0 ∨ s.fault = 1 ∨ s.fault = 2) ∧ s.hostMem.wf ∧ ∀ c ∈ s.hostMem, c.1 < 2 ^ 64

/-! ### The tables of headers and handles -/

/-- The opcodes of the map of R99. -/
abbrev mappedOpcode (opc : Nat) : Prop :=
  (0x01 ≤ opc ∧ opc ≤ 0x06) ∨ (0x10 ≤ opc ∧ opc ≤ 0x1B) ∨ opc = 0x20 ∨ (0x30 ≤ opc ∧ opc ≤ 0x35) ∨ opc = 0x40 ∨
    opc = 0x50

/-- The opcodes whose T field is not used: PX_*, FMT_*, BLEND (R99, R328). -/
abbrev opcodeWithoutT (opc : Nat) : Prop := (0x01 ≤ opc ∧ opc ≤ 0x06) ∨ opc = 0x20

/-- The table of legal MODE values of R98. -/
abbrev legalMode (opc mode : Nat) : Prop :=
  if opc = 0x30 ∨ opc = 0x33 then mode = 0 ∨ mode = 1
  else if opc = 0x32 ∨ opc = 0x34 then mode = 0 ∨ mode = 1 ∨ mode = 2 ∨ mode = 3
  else if opc = 0x35 then mode = 0 ∨ mode = 2
  else if opc = 0x40 then mode = 0 ∨ mode = 1
  else if opc = 0x50 then mode = 0 ∨ mode = 1 ∨ mode = 2
  else mode = 0

/-- A header word that R100 does not fault with IllegalCommand, field by field (R91, R98, R99, R101). -/
abbrev legalHeader (hdr : Word) : Prop :=
  mappedOpcode (hdr.extractLsb' 0 8).toNat ∧ hdr.extractLsb' 12 4 = 0 ∧
    legalMode (hdr.extractLsb' 0 8).toNat (hdr.extractLsb' 8 4).toNat ∧
    (opcodeWithoutT (hdr.extractLsb' 0 8).toNat → hdr.extractLsb' 16 8 = 0) ∧
    ((hdr.extractLsb' 0 8).toNat ≠ 0x50 → hdr.extractLsb' 24 8 = 0)

/-- The header word of a command: s<<24 | t<<16 | m<<8 | OPC (R91, R99). -/
def headerWord (opc mode : Nat) (t s : Handle) : Word :=
  BitVec.ofNat 32 (s.toNat * 2 ^ 24 + t.toNat * 2 ^ 16 + mode * 2 ^ 8 + opc)

/-- h < NUM_SLOTS and slot[h] is Live. -/
def State.liveAt (s : State) (h : Handle) : Prop := ∃ d, s.slots[h.toNat]? = some (some d)

/-- The table of handle checks of R328. -/
def State.handleRule (s : State) (hd : Header) : Prop :=
  let opc := hd.op.opc.toNat
  if opcodeWithoutT opc then True
  else if opc = 0x10 ∨ opc = 0x11 then s.slots[hd.t.toNat]? = some none
  else if opc = 0x12 then hd.t.toNat < s.slots.length
  else if opc = 0x50 then s.liveAt hd.t ∧ s.liveAt hd.s
  else s.liveAt hd.t

/-! ### What a command may change -/

/-- d' is d with at most the owned array's contents changed (R35). -/
def Drawbuffer.sameBut (d d' : Drawbuffer) : Prop :=
  d'.w = d.w ∧ d'.h = d.h ∧ d'.fmt = d.fmt ∧
    match d.backing with
    | .owned _ => ∃ mem, d'.backing = .owned mem
    | .borrowed base ctx => d'.backing = .borrowed base ctx

/-- The byte at an offset belongs to pixel (x, y), where a pixel write stores it (R63, R67). -/
def Drawbuffer.pixelHas (d : Drawbuffer) (q : Point) (off : Nat) : Prop :=
  let span := pixelSpan d.fmt d.w q.1.toNat q.2.toNat
  d.inBounds q.1 q.2 = true ∧ span.1 ≤ off ∧ off < span.1 + span.2

/-- From s to s' nothing changed but the response port and the bytes at the touched offsets of buffer t's space, whose
descriptor in s is d: every other slot, every other byte of t, every other byte of host memory, FAULT, the command port
and the draw counter are as before. -/
structure BufferFrame (s s' : State) (t : Handle) (d : Drawbuffer) (touched : Nat → Prop) : Prop where
  fault : s'.fault = s.fault
  port : s'.port = s.port
  allocDraws : s'.allocDraws = s.allocDraws
  slotCount : s'.slots.length = s.slots.length
  otherSlots : ∀ g, g ≠ t → s'.slot g = s.slot g
  descriptor : ∃ d', s'.slot t = some d' ∧ d.sameBut d'
  bytes : ∀ off, ¬ touched off → s'.readByte t off = s.readByte t off
  host : ∀ a, (∀ base ctx, d.backing = .borrowed base ctx → ∀ off, touched off → a ≠ base.toNat + off) →
    s'.hostMem.read a = s.hostMem.read a

/-- The padding bits of a mono1 buffer, the 8 - (w*h mod 8) low-order bits of its last byte that belong to no pixel, are
in s' as in s (R67, R70). Other formats have none. -/
def PaddingKept (s s' : State) (t : Handle) (d : Drawbuffer) : Prop :=
  d.fmt = .mono1 → d.w * d.h % 8 ≠ 0 → ∀ k < 8 - d.w * d.h % 8,
    (s'.readByte t (d.byteLength - 1)).getLsbD k = (s.readByte t (d.byteLength - 1)).getLsbD k

/-- s' is s after a command drew, with status OK: each in-bounds pixel that stands n times in pts went n times through
"apply f and store what the format keeps", the others are as before, and nothing else changed. -/
structure Drawn (s s' : State) (t : Handle) (d : Drawbuffer) (pts : List Point) (f : Pixel → Pixel) : Prop where
  answer : s'.resp = s.resp ++ [0x00000000]
  pixels : ∀ q : Point, d.inBounds q.1 q.2 = true →
    s'.getPx t q.1 q.2 = (fun p => quant d.fmt (f p))^[pts.count q] (s.getPx t q.1 q.2)
  padding : PaddingKept s s' t d
  frame : BufferFrame s s' t d fun off => ∃ q ∈ pts, d.pixelHas q off

/-- s' is s after an anti-aliased pass with status OK: each in-bounds pixel with k > 0 is blended once with alpha k and
stored, the others are as before, and nothing else changed (R231, R281). -/
structure DrawnAa (s s' : State) (t : Handle) (d : Drawbuffer) (color : Pixel) (k : Point → Nat) : Prop where
  answer : s'.resp = s.resp ++ [0x00000000]
  pixels : ∀ q : Point, d.inBounds q.1 q.2 = true →
    s'.getPx t q.1 q.2 =
      if 0 < k q then
        quant d.fmt
          (blend (s.getPx t q.1 q.2) (pix (pixR color) (pixG color) (pixB color) (BitVec.ofNat 8 (k q))))
      else s.getPx t q.1 q.2
  padding : PaddingKept s s' t d
  frame : BufferFrame s s' t d fun off => ∃ q, 0 < k q ∧ d.pixelHas q off

/-- Raster order of points: y first, then x (R271, R291). -/
def rasterLt (p q : Point) : Prop := p.2 < q.2 ∨ (p.2 = q.2 ∧ p.1 < q.1)

/-- Where the edge from P to Q crosses row y, exactly; P.y ≠ Q.y (R260). -/
def crossing (P Q : Point) (y : Int) : Rat := P.1 + (y - P.2) * (Q.1 - P.1) / (Q.2 - P.2)

/-- x lies on the span between two crossings, both ends floored and included (R260). -/
abbrev onSpan (e f : Rat) (x : Int) : Prop := ⌊min e f⌋ ≤ x ∧ x ≤ ⌊max e f⌋

/-- rep(fmt), the representable pixels, by their channels (R140). -/
def representable (f : Format) (p : Pixel) : Prop :=
  let r := (pixR p).toNat
  let g := (pixG p).toNat
  let b := (pixB p).toNat
  let a := (pixA p).toNat
  match f with
  | .mono1 => (r = 0 ∧ g = 0 ∧ b = 0 ∧ a = 0) ∨ (r = 255 ∧ g = 255 ∧ b = 255 ∧ a = 255)
  | .gray8 => g = r ∧ b = r ∧ a = r
  | .rgb332 => a = 255 ∧ r % 32 = 0 ∧ g % 32 = 0 ∧ b % 64 = 0
  | .rgb565 | .bgr565 => a = 255 ∧ r % 8 = 0 ∧ g % 4 = 0 ∧ b % 8 = 0
  | .rgb888 | .bgr888 => a = 255
  | .rgba8888 | .argb8888 | .abgr8888 | .bgra8888 => True

/-- The buffer's format keeps every bit of the colour channels: the 24- and 32-bit formats (R136, R137). -/
def Format.keepsColour : Format → Prop
  | .mono1 | .gray8 | .rgb332 | .rgb565 | .bgr565 => False
  | .rgb888 | .bgr888 | .rgba8888 | .argb8888 | .abgr8888 | .bgra8888 => True

end Sys2Proof.Machine
end

