-- ==== Sys2Proof/Certificates/Slice0/Obligations.lean ====
section
/-! DEFINITION. The statements about the LDB core, for the provers. Each docstring names the rules of spec/ it
formalises. A statement is about every state unless it names an invariant; response words stand as literals of R94. -/

open Sys2Proof
open Sys2Proof.Machine

/-! ### Encoding -/

/-- R91, R92, R99: decoding the words of a well-formed command gives it back, whatever follows. -/
def Obligations.DecodeOfEncode : Prop :=
  ∀ (i : Instr) (rest : List Word), i.wellFormed = true → decode (encode i ++ rest) = .ok (i, rest)

/-- R91, R92, R99: each command has one encoding; what the decoder accepts is the encoding of what it answers. -/
def Obligations.EncodeOfDecode : Prop :=
  ∀ (ws : List Word) (i : Instr) (rest : List Word),
    decode ws = .ok (i, rest) → i.wellFormed = true ∧ encode i ++ rest = ws

/-- R91, R92, R93, R98, R99: the words of each of the 39 commands, header fields and argument order. -/
def Obligations.EncodingsFollowTheMap : Prop :=
  ∀ (t s : Handle) (a b c d e f g h : Word) (data : List Word),
    encode (.pxDecode a b) = [headerWord 0x01 0 0 0, a, b] ∧
    encode (.pxEncode a b) = [headerWord 0x02 0 0 0, a, b] ∧
    encode (.fmtBpp a) = [headerWord 0x03 0 0 0, a] ∧
    encode (.fmtSize a b c) = [headerWord 0x04 0 0 0, a, b, c] ∧
    encode (.fmtName a) = [headerWord 0x05 0 0 0, a] ∧
    encode (.fmtId a b c) = [headerWord 0x06 0 0 0, a, b, c] ∧
    encode (.new t a b c) = [headerWord 0x10 0 t 0, a, b, c] ∧
    encode (.wrap t a b c d e f) = [headerWord 0x11 0 t 0, a, b, c, d, e, f] ∧
    encode (.close t) = [headerWord 0x12 0 t 0] ∧
    encode (.width t) = [headerWord 0x13 0 t 0] ∧
    encode (.height t) = [headerWord 0x14 0 t 0] ∧
    encode (.pixelFormat t) = [headerWord 0x15 0 t 0] ∧
    encode (.byteLength t) = [headerWord 0x16 0 t 0] ∧
    encode (.getPixel t a b) = [headerWord 0x17 0 t 0, a, b] ∧
    encode (.setPixel t a b c) = [headerWord 0x18 0 t 0, a, b, c] ∧
    encode (.dump t) = [headerWord 0x19 0 t 0] ∧
    encode (.load t a data) = headerWord 0x1A 0 t 0 :: a :: data ∧
    encode (.clear t a b c d) = [headerWord 0x1B 0 t 0, a, b, c, d] ∧
    encode (.blend a b) = [headerWord 0x20 0 0 0, a, b] ∧
    encode (.line t a b c d e) = [headerWord 0x30 0 t 0, a, b, c, d, e] ∧
    encode (.lineB t a b c d e) = [headerWord 0x30 1 t 0, a, b, c, d, e] ∧
    encode (.lineAa t a b c d e f) = [headerWord 0x31 0 t 0, a, b, c, d, e, f] ∧
    encode (.rectF t a b c d e) = [headerWord 0x32 0 t 0, a, b, c, d, e] ∧
    encode (.rectFB t a b c d e) = [headerWord 0x32 1 t 0, a, b, c, d, e] ∧
    encode (.rectO t a b c d e) = [headerWord 0x32 2 t 0, a, b, c, d, e] ∧
    encode (.rectOB t a b c d e) = [headerWord 0x32 3 t 0, a, b, c, d, e] ∧
    encode (.triangle t a b c d e f g) = [headerWord 0x33 0 t 0, a, b, c, d, e, f, g] ∧
    encode (.triangleB t a b c d e f g) = [headerWord 0x33 1 t 0, a, b, c, d, e, f, g] ∧
    encode (.circleF t a b c d) = [headerWord 0x34 0 t 0, a, b, c, d] ∧
    encode (.circleFB t a b c d) = [headerWord 0x34 1 t 0, a, b, c, d] ∧
    encode (.circleO t a b c d) = [headerWord 0x34 2 t 0, a, b, c, d] ∧
    encode (.circleOB t a b c d) = [headerWord 0x34 3 t 0, a, b, c, d] ∧
    encode (.circleAaF t a b c d) = [headerWord 0x35 0 t 0, a, b, c, d] ∧
    encode (.circleAaO t a b c d) = [headerWord 0x35 2 t 0, a, b, c, d] ∧
    encode (.dither t a) = [headerWord 0x40 0 t 0, a] ∧
    encode (.ditherD t a) = [headerWord 0x40 1 t 0, a] ∧
    encode (.composeOp t s a b c d e f g h) = [headerWord 0x50 0 t s, a, b, c, d, e, f, g, h] ∧
    encode (.composeSkip t s a b c d e f g h) = [headerWord 0x50 1 t s, a, b, c, d, e, f, g, h] ∧
    encode (.composeBlend t s a b c d e f g h) = [headerWord 0x50 2 t s, a, b, c, d, e, f, g, h]

/-- Words written out in 95_test_vectors, one of each family and two that fault, decode as the spec writes them. -/
def Obligations.SpecWordsDecode : Prop :=
  decode [0x00000001, 0x00000003, 0x0001FC08] = .ok (.pxDecode 3 0x1FC08, []) ∧
  decode [0x00000005, 0x0000000A] = .ok (.fmtName 10, []) ∧
  decode [0x00010010, 4, 4, 3] = .ok (.new 1 4 4 3, []) ∧
  decode [0x00000017, 0xFFFFFFFF, 0x00000000] = .ok (.getPixel 0 0xFFFFFFFF 0, []) ∧
  decode [0x0000001A, 0x00000003, 0x00030201] = .ok (.load 0 3 [0x00030201], []) ∧
  decode [0x00000020, 0x10203040, 0x55667700] = .ok (.blend 0x10203040 0x55667700, []) ∧
  decode [0x00000030, 0, 0, 3, 0, 0xFFFFFFFF] = .ok (.line 0 0 0 3 0 0xFFFFFFFF, []) ∧
  decode [0x00000332, 0, 0, 4, 1, 0xFF000080] = .ok (.rectOB 0 0 0 4 1 0xFF000080, []) ∧
  decode [0x00000235, 2, 2, 0x200, 0xFFFFFFFF] = .ok (.circleAaO 0 2 2 0x200 0xFFFFFFFF, []) ∧
  decode [0x00030040, 0x80808000] = .ok (.dither 3 0x80808000, []) ∧
  decode [0x00010250, 0, 0, 0, 0, 2, 1, 2, 1] = .ok (.composeBlend 1 0 0 0 0 0 2 1 2 1, []) ∧
  decode [0x00000230] = .error .illegalCommand ∧ decode [0x01000030] = .error .illegalCommand

/-- R100, R101, with the tables of R98 and R99: the decoder accepts exactly the headers the map has, with RSV 0 and
unused handle fields 0, and answers the row and the handles that stand in the word. -/
def Obligations.HeaderAcceptedExactlyByTheMap : Prop :=
  ∀ hdr : Word, ((decodeHeader hdr).isSome = true ↔ legalHeader hdr) ∧
    ∀ hd, decodeHeader hdr = some hd →
      hd.op.opc = hdr.extractLsb' 0 8 ∧ hd.op.mode = hdr.extractLsb' 8 4 ∧ hd.t = hdr.extractLsb' 16 8 ∧
        hd.s = hdr.extractLsb' 24 8

/-! ### The step -/

/-- R90, R100: when the port's words decode to a command whose handles pass, the step runs that command, in the state
whose port begins after its words. -/
def Obligations.StepRunsTheDecodedCommand : Prop :=
  ∀ (s : State) (i : Instr) (rest : List Word),
    s.faultCause = 0 → decode s.port = .ok (i, rest) → s.handleRule i.header → step s = exec i (s.setPort rest)

/-- R101, R326, R328: a header that is not legal takes the fault IllegalCommand; a legal one whose handle check fails
takes BadHandle; FAULT records the cause and nothing more, one word answers, only the header word is read. -/
def Obligations.HeaderFaults : Prop :=
  ∀ (s : State) (hdr : Word) (rest : List Word),
    s.port = hdr :: rest → s.faultCause = 0 →
      (¬ legalHeader hdr →
        step s = .next { s with port := rest, fault := 1, resp := s.resp ++ [0x00000180] }) ∧
      ∀ hd : Header, decodeHeader hdr = some hd → ¬ s.handleRule hd →
        step s = .next { s with port := rest, fault := 2, resp := s.resp ++ [0x00000280] }

/-- The meaning of every command makes the handle check of R328 itself. R328 has the check made once, before any argument
is read, which step does (HeaderFaults); that exec makes it too is the model's choice (log entry 10). -/
def Obligations.EveryMeaningChecksItsHandles : Prop :=
  ∀ (i : Instr) (s : State), ¬ s.handleRule i.header →
    exec i s = .next { s with fault := 2, resp := s.resp ++ [0x00000280] }

/-- R327: while FAULT.cause is not 0 the engine answers each word it reads with one status word, STATUS 0x80 and CAUSE
FAULT.cause, and changes nothing else, FAULT included; reset clears FAULT. -/
def Obligations.FaultedStateAnswersEachWord : Prop :=
  ∀ (s : State) (w : Word) (rest : List Word),
    s.faultCause ≠ 0 → s.port = w :: rest →
      (∃ answer : Word, step s = .next { s with port := rest, resp := s.resp ++ [answer] } ∧
        answer.extractLsb' 0 8 = 0x80 ∧ answer.extractLsb' 8 8 = s.faultCause ∧ answer.extractLsb' 16 16 = 0) ∧
      s.assertReset.fault = 0

/-- R37, R327, R350: no step clears a nonzero FAULT.cause or does anything else in the faulted state; reset clears it. -/
def Obligations.OnlyResetClearsTheFault : Prop :=
  ∀ s : State, s.assertReset.fault = 0 ∧
    ∀ s', s.faultCause ≠ 0 → step s = .next s' →
      s'.fault = s.fault ∧ s'.slots = s.slots ∧ s'.hostMem = s.hostMem ∧ s'.allocDraws = s.allocDraws

/-- R351, U15: with an idle port the state stays; with words of a legal command missing the machine is stuck by name. The
stop's name and the idle step are the model's (log entries 5 and 6). -/
def Obligations.WaitingMovesNothing : Prop :=
  (∀ s : State, s.port = [] → step s = .next s) ∧
  ∀ (s : State) (hdr : Word) (rest : List Word) (hd : Header),
    s.port = hdr :: rest → s.faultCause = 0 → decodeHeader hdr = some hd → s.handleRule hd →
      decode s.port = .error .incomplete → step s = .fault .awaitingArguments

/-- R11, R33, R36, R37, R60: every step keeps the invariant and the size of the slot table. -/
def Obligations.StepKeepsTheInvariant : Prop :=
  ∀ s s' : State, s.Inv → step s = .next s' → s'.Inv ∧ s'.slots.length = s.slots.length

/-- R350, R351, R340, R73: the state right after reset meets the invariant, and every move the host has between commands
keeps it: asserting reset, presenting words, taking the responses, writing a byte of its memory. -/
def Obligations.ResetMeetsTheInvariant : Prop :=
  State.reset.Inv ∧
  ∀ s : State, s.Inv → s.assertReset.Inv ∧ (∀ ws, (s.present ws).Inv) ∧ s.takeResponses.2.Inv ∧
    ∀ a v, (s.hostWrite a v).Inv

/-- R351, R42: right after reset every slot is Empty, FAULT is 0 and both ports are empty, and the table has NUM_SLOTS
slots; asserting reset in any state does the same and leaves host memory alone, with no response word sent. -/
def Obligations.ResetLeavesEverySlotEmpty : Prop :=
  (State.reset.slots.length = Config.numSlots ∧ (∀ h, State.reset.slot h = none) ∧ State.reset.fault = 0 ∧
    State.reset.port = [] ∧ State.reset.resp = []) ∧
  ∀ s : State, (s.assertReset.slots.length = s.slots.length ∧ (∀ h, s.assertReset.slot h = none) ∧
    s.assertReset.fault = 0 ∧ s.assertReset.port = [] ∧ s.assertReset.resp = [] ∧ s.assertReset.hostMem = s.hostMem)

/-- R331: a fault is precise: a step that changes FAULT changes no slot and no memory, sends one word, and reads one. -/
def Obligations.FaultsArePrecise : Prop :=
  ∀ s s' : State, step s = .next s' → s'.fault ≠ s.fault →
    s'.slots = s.slots ∧ s'.hostMem = s.hostMem ∧ s'.allocDraws = s.allocDraws ∧
      s'.port = s.port.tail ∧ ∃ w, s'.resp = s.resp ++ [w]

/-- R320, R323: a command that ends in an error changes no state: slots, memories, FAULT and host memory are as before.
(The model's own draw counter may have moved: log entry 2.) -/
def Obligations.ErrorsChangeNoState : Prop :=
  ∀ (i : Instr) (s s' : State) (e : Word), exec i s = .next s' → s'.resp = s.resp ++ [e] →
    1 ≤ e.toNat → e.toNat ≤ 6 →
      s'.slots = s.slots ∧ s'.hostMem = s.hostMem ∧ s'.fault = s.fault ∧ s'.port = s.port

/-- R94, R320, R341: every command that answers sends BadHandle's word, or one error word, or the OK word and results, or,
for CLOSE only, a teardown notification and then OK. -/
def Obligations.EveryCommandAnswersOnce : Prop :=
  ∀ (i : Instr) (s s' : State), exec i s = .next s' →
    ∃ ws, s'.resp = s.resp ++ ws ∧
      (ws = [0x00000280] ∨ (∃ e : Word, 1 ≤ e.toNat ∧ e.toNat ≤ 6 ∧ ws = [e]) ∨ (∃ results, ws = 0 :: results) ∨
        ∃ t ctx, i = .close t ∧ ws = [0x00000040 ||| t.setWidth 32 <<< 16, ctx, 0])

/-- R35, R74: a command changes no slot but its target's, of a slot that stays Live only the owned contents, and of host
memory only the region of its Borrowed target; FAULT changes by BadHandle only. -/
def Obligations.CommandsTouchOnlyTheirTarget : Prop :=
  ∀ (i : Instr) (s s' : State), exec i s = .next s' →
    s'.slots.length = s.slots.length ∧ (∀ g, g ≠ i.target → s'.slot g = s.slot g) ∧
    (∀ g d d', s.slot g = some d → s'.slot g = some d' → d.sameBut d') ∧
    (∀ a, (∀ d base ctx, s.slot i.target = some d → d.backing = .borrowed base ctx →
        a < base.toNat ∨ base.toNat + d.byteLength ≤ a) → s'.hostMem.read a = s.hostMem.read a) ∧
    s'.port = s.port ∧ (s.handleRule i.header → s'.fault = s.fault)

/-! ### The codec and the registry -/

/-- R141: every packed value survives decoding and encoding. -/
def Obligations.PackedRoundTrip : Prop :=
  ∀ (f : Format) (P : Word), P.toNat < 2 ^ f.bpp → enc f (dec f P) = P

/-- R131, R140: rep(fmt) is the image of dec, every representable pixel survives encoding and decoding, and every packed
value is below 2^bpp. -/
def Obligations.RepresentableRoundTrip : Prop :=
  ∀ (f : Format) (p : Pixel), (representable f p ↔ ∃ P : Word, P.toNat < 2 ^ f.bpp ∧ dec f P = p) ∧
    (representable f p → dec f (enc f p) = p) ∧ (enc f p).toNat < 2 ^ f.bpp

/-- R138: the alpha a decoded pixel reports, by format. -/
def Obligations.DecodedAlpha : Prop :=
  ∀ P : Word,
    pixA (dec .mono1 P) = (if P.getLsbD 0 then 255 else 0) ∧ pixA (dec .gray8 P) = P.extractLsb' 0 8 ∧
    (∀ f, f = .rgb332 ∨ f = .rgb565 ∨ f = .bgr565 ∨ f = .rgb888 ∨ f = .bgr888 → pixA (dec f P) = 255) ∧
    pixA (dec .rgba8888 P) = P.extractLsb' 24 8 ∧ pixA (dec .argb8888 P) = P.extractLsb' 0 8 ∧
    pixA (dec .abgr8888 P) = P.extractLsb' 0 8 ∧ pixA (dec .bgra8888 P) = P.extractLsb' 24 8

/-- R132 to R135: the encoders and decoders of mono1, gray8, rgb332, rgb565 and bgr565, as arithmetic on the channels and
on the packed value: top bits kept, no rounding; shifted back, no replication of bits. -/
def Obligations.LossyCodecs : Prop :=
  ∀ (p : Pixel) (P : Word),
    let r := (pixR p).toNat
    let g := (pixG p).toNat
    let b := (pixB p).toNat
    let v := P.toNat
    ((enc .mono1 p).toNat = r / 128 ∧ dec .mono1 P = if v % 2 = 0 then 0x00000000 else 0xFFFFFFFF) ∧
    ((enc .gray8 p).toNat = r ∧ (dec .gray8 P).toNat = (v % 256) * 0x01010101) ∧
    ((enc .rgb332 p).toNat = r / 32 * 32 + g / 32 * 4 + b / 64 ∧
      (dec .rgb332 P).toNat =
        (v / 32 % 8 * 32) * 2 ^ 24 + (v / 4 % 8 * 32) * 2 ^ 16 + (v % 4 * 64) * 2 ^ 8 + 255) ∧
    ((enc .rgb565 p).toNat = r / 8 * 2 ^ 11 + g / 4 * 2 ^ 5 + b / 8 ∧
      (dec .rgb565 P).toNat =
        (v / 2 ^ 11 % 32 * 8) * 2 ^ 24 + (v / 2 ^ 5 % 64 * 4) * 2 ^ 16 + (v % 32 * 8) * 2 ^ 8 + 255) ∧
    ((enc .bgr565 p).toNat = b / 8 * 2 ^ 11 + g / 4 * 2 ^ 5 + r / 8 ∧
      (dec .bgr565 P).toNat =
        (v % 32 * 8) * 2 ^ 24 + (v / 2 ^ 5 % 64 * 4) * 2 ^ 16 + (v / 2 ^ 11 % 32 * 8) * 2 ^ 8 + 255)

/-- R136, R137: the encoders and decoders of the six byte-exact formats, channel by channel: byte k of the packed value
is the channel the format's name lists k-th, and a 24-bit format reads as opaque. -/
def Obligations.ByteExactCodecs : Prop :=
  ∀ (p : Pixel) (P : Word),
    let r := (pixR p).toNat
    let g := (pixG p).toNat
    let b := (pixB p).toNat
    let a := (pixA p).toNat
    let B := fun k => P.toNat / 2 ^ (8 * k) % 256
    let word := fun r g b a : ℕ => r * 2 ^ 24 + g * 2 ^ 16 + b * 2 ^ 8 + a
    ((enc .rgb888 p).toNat = r + g * 2 ^ 8 + b * 2 ^ 16 ∧ (dec .rgb888 P).toNat = word (B 0) (B 1) (B 2) 255) ∧
    ((enc .bgr888 p).toNat = b + g * 2 ^ 8 + r * 2 ^ 16 ∧ (dec .bgr888 P).toNat = word (B 2) (B 1) (B 0) 255) ∧
    ((enc .rgba8888 p).toNat = r + g * 2 ^ 8 + b * 2 ^ 16 + a * 2 ^ 24 ∧
      (dec .rgba8888 P).toNat = word (B 0) (B 1) (B 2) (B 3)) ∧
    ((enc .argb8888 p).toNat = a + r * 2 ^ 8 + g * 2 ^ 16 + b * 2 ^ 24 ∧
      (dec .argb8888 P).toNat = word (B 1) (B 2) (B 3) (B 0)) ∧
    ((enc .abgr8888 p).toNat = a + b * 2 ^ 8 + g * 2 ^ 16 + r * 2 ^ 24 ∧
      (dec .abgr8888 P).toNat = word (B 3) (B 2) (B 1) (B 0)) ∧
    ((enc .bgra8888 p).toNat = b + g * 2 ^ 8 + r * 2 ^ 16 + a * 2 ^ 24 ∧
      (dec .bgra8888 P).toNat = word (B 2) (B 1) (B 0) (B 3))

/-- R130, R96: the registry's ids, names (as the words of 95 V2) and bits per pixel, and that an id outside 0..10 names
nothing. -/
def Obligations.RegistryTable : Prop :=
  Format.all.map (fun f => (f.id, f.nameWords, f.bpp)) =
    [(0, [0x6F6E6F6D, 0x00000031, 0], 1), (1, [0x79617267, 0x00000038, 0], 8), (2, [0x33626772, 0x00003233, 0], 8),
     (3, [0x35626772, 0x00003536, 0], 16), (4, [0x35726762, 0x00003536, 0], 16), (5, [0x38626772, 0x00003838, 0], 24),
     (6, [0x38726762, 0x00003838, 0], 24), (7, [0x61626772, 0x38383838, 0], 32), (8, [0x62677261, 0x38383838, 0], 32),
     (9, [0x72676261, 0x38383838, 0], 32), (10, [0x61726762, 0x38383838, 0], 32)] ∧
  ∀ id : Nat, (∀ f : Format, Format.ofId? id = some f ↔ f.id = id) ∧ (10 < id → Format.ofId? id = none)

/-- R160, R161, R162, R164: PX_DECODE, PX_ENCODE, FMT_BPP and FMT_NAME complete on a format id of the registry and report
UnsupportedFormat on any other. -/
def Obligations.CodecCommandsComplete : Prop :=
  ∀ (s : State) (fmt packed : Word) (pixel : Pixel),
    (∀ f : Format, f.id = fmt.toNat →
      exec (.pxDecode fmt packed) s = .next (s.respond [0, dec f (BitVec.ofNat 32 (packed.toNat % 2 ^ f.bpp))]) ∧
      exec (.pxEncode fmt pixel) s = .next (s.respond [0, enc f pixel]) ∧
      exec (.fmtBpp fmt) s = .next (s.respond [0, BitVec.ofNat 32 f.bpp]) ∧
      exec (.fmtName fmt) s = .next (s.respond (0 :: f.nameWords))) ∧
    (10 < fmt.toNat →
      exec (.pxDecode fmt packed) s = .next (s.respond [0x00000002]) ∧
      exec (.pxEncode fmt pixel) s = .next (s.respond [0x00000002]) ∧
      exec (.fmtBpp fmt) s = .next (s.respond [0x00000002]) ∧
      exec (.fmtName fmt) s = .next (s.respond [0x00000002]))

/-- R163, R330: FMT_SIZE answers the exact size in two words; a width or height that is not positive comes before a bad
format. -/
def Obligations.FmtSizeIsExact : Prop :=
  ∀ (s : State) (fmt w h : Word),
    ((w.toInt ≤ 0 ∨ h.toInt ≤ 0) → exec (.fmtSize fmt w h) s = .next (s.respond [0x00000001])) ∧
    (0 < w.toInt → 0 < h.toInt →
      (10 < fmt.toNat → exec (.fmtSize fmt w h) s = .next (s.respond [0x00000002])) ∧
      ∀ f : Format, f.id = fmt.toNat → ∃ lo hi : Word, exec (.fmtSize fmt w h) s = .next (s.respond [0, lo, hi]) ∧
        ((lo.toNat + hi.toNat * 2 ^ 32 : ℕ) : ℤ) = ⌈((w.toInt * h.toInt * f.bpp : ℤ) : ℚ) / 8⌉)

/-- R165: FMT_ID answers the id whose name's three words are given, and UnsupportedFormat where no name's are. -/
def Obligations.FmtIdMatchesAllTwelveBytes : Prop :=
  ∀ (s : State) (n0 n1 n2 : Word),
    (∀ f : Format, f.nameWords = [n0, n1, n2] →
      exec (.fmtId n0 n1 n2) s = .next (s.respond [0, BitVec.ofNat 32 f.id])) ∧
    ((∀ f : Format, f.nameWords ≠ [n0, n1, n2]) → exec (.fmtId n0 n1 n2) s = .next (s.respond [0x00000002]))

/-! ### The blend engine -/

/-- R211, R212: BLEND answers one pixel and changes nothing else: base where the paint's opacity a is 0, the paint's
colour with base's alpha where a is 255, else the floored mix of each colour lane with base's alpha. -/
def Obligations.BlendCompletes : Prop :=
  ∀ (s : State) (base paint : Pixel),
    exec (.blend base paint) s = .next (s.respond [0, blend base paint]) ∧
    let a := (pixA paint).toNat
    (a = 0 → blend base paint = base) ∧
    (a = 255 → blend base paint = pix (pixR paint) (pixG paint) (pixB paint) (pixA base)) ∧
    (a ≠ 0 → a ≠ 255 →
      (pixR (blend base paint)).toNat = ((pixR base).toNat * (255 - a) + (pixR paint).toNat * a) / 255 ∧
      (pixG (blend base paint)).toNat = ((pixG base).toNat * (255 - a) + (pixG paint).toNat * a) / 255 ∧
      (pixB (blend base paint)).toNat = ((pixB base).toNat * (255 - a) + (pixB paint).toNat * a) / 255 ∧
      pixA (blend base paint) = pixA base)

/-- R213 (the spec's own derivation from R211): base's alpha is always kept; each lane lies between base and paint; the
general formula gives all three cases; a paint of base's own colour changes nothing. -/
def Obligations.BlendProperties : Prop :=
  ∀ base paint : Pixel,
    pixA (blend base paint) = pixA base ∧
    (∀ c : Pixel → Byte, c = pixR ∨ c = pixG ∨ c = pixB →
      (c (blend base paint)).toNat =
        ((c base).toNat * (255 - (pixA paint).toNat) + (c paint).toNat * (pixA paint).toNat) / 255 ∧
      min (c base).toNat (c paint).toNat ≤ (c (blend base paint)).toNat ∧
      (c (blend base paint)).toNat ≤ max (c base).toNat (c paint).toNat) ∧
    (pixR paint = pixR base → pixG paint = pixG base → pixB paint = pixB base → blend base paint = base)

/-! ### Drawbuffers -/

/-- R170, R43: NEW on an Empty slot with positive dimensions and a format of the registry completes: where the size is
within MEM_LIMIT and the draw alloc_ok is granted it makes a Live Owned buffer whose bytes are all zero, else it reports
AllocationFailure and the slot stays Empty; nothing else changes. The draw is the model's free value (log entry 2), and
the statement holds for both. -/
def Obligations.NewMakesAZeroedBuffer : Prop :=
  ∀ (s : State) (t : Handle) (w h fmt : Word) (f : Format),
    s.slots[t.toNat]? = some none → 0 < w.toInt → 0 < h.toInt → f.id = fmt.toNat →
      let n := Machine.byteLength f w.toInt.toNat h.toInt.toNat
      ∃ s', exec (.new t w h fmt) s = .next s' ∧
        (n ≤ Config.memLimit → Config.allocOk s.allocDraws = true →
          s'.resp = s.resp ++ [0] ∧ (∀ off, s'.readByte t off = 0) ∧
            ∃ d mem, s'.slot t = some d ∧ (d.w : ℤ) = w.toInt ∧ (d.h : ℤ) = h.toInt ∧ d.fmt = f ∧
              d.backing = .owned mem) ∧
        ((Config.memLimit < n ∨ Config.allocOk s.allocDraws = false) →
          s'.resp = s.resp ++ [0x00000003] ∧ s'.slots = s.slots) ∧
        (∀ g, g ≠ t → s'.slot g = s.slot g) ∧ s'.slots.length = s.slots.length ∧ s'.hostMem = s.hostMem ∧
        s'.fault = s.fault ∧ s'.port = s.port

/-- R170, R321, R330: NEW on an Empty slot reports InvalidDimension before UnsupportedFormat, and nothing changes. -/
def Obligations.NewReportsErrorsInOrder : Prop :=
  ∀ (s : State) (t : Handle) (w h fmt : Word), s.slots[t.toNat]? = some none →
    ((w.toInt ≤ 0 ∨ h.toInt ≤ 0) → exec (.new t w h fmt) s = .next (s.respond [0x00000001])) ∧
    (0 < w.toInt → 0 < h.toInt → 10 < fmt.toNat → exec (.new t w h fmt) s = .next (s.respond [0x00000002]))

/-- R171, R330: WRAP on an Empty slot records the region and touches no byte; its errors in their order. -/
def Obligations.WrapRecordsTheRegion : Prop :=
  ∀ (s : State) (t : Handle) (w h fmt baseLo baseHi ctx : Word), s.slots[t.toNat]? = some none →
    ((w.toInt ≤ 0 ∨ h.toInt ≤ 0) → exec (.wrap t w h fmt baseLo baseHi ctx) s = .next (s.respond [0x00000001])) ∧
    (0 < w.toInt → 0 < h.toInt → 10 < fmt.toNat →
      exec (.wrap t w h fmt baseLo baseHi ctx) s = .next (s.respond [0x00000002])) ∧
    ∀ f : Format, 0 < w.toInt → 0 < h.toInt → f.id = fmt.toNat →
      (2 ^ 32 - 1 < Machine.byteLength f w.toInt.toNat h.toInt.toNat →
        exec (.wrap t w h fmt baseLo baseHi ctx) s = .next (s.respond [0x00000001])) ∧
      (Machine.byteLength f w.toInt.toNat h.toInt.toNat ≤ 2 ^ 32 - 1 →
        ∃ s' base, exec (.wrap t w h fmt baseLo baseHi ctx) s = .next s' ∧ s'.resp = s.resp ++ [0] ∧
          s'.slot t = some ⟨w.toInt.toNat, h.toInt.toNat, f, .borrowed base ctx⟩ ∧
          base.toNat = baseHi.toNat * 2 ^ 32 + baseLo.toNat ∧ (∀ g, g ≠ t → s'.slot g = s.slot g) ∧
          s'.slots.length = s.slots.length ∧ s'.hostMem = s.hostMem ∧ s'.fault = s.fault ∧ s'.port = s.port ∧
          s'.allocDraws = s.allocDraws)

/-- R172, R341: CLOSE of a slot of the table always answers OK and leaves the slot Empty: nothing else happens to an Empty
or Owned one, a Borrowed one sends its two notification words first; host memory is not touched; a second CLOSE only
answers OK. -/
def Obligations.CloseEmptiesTheSlot : Prop :=
  ∀ (s : State) (t : Handle), t.toNat < s.slots.length →
    ∃ s' ws, exec (.close t) s = .next s' ∧ s'.resp = s.resp ++ ws ∧
      (s.slot t = none → ws = [0]) ∧
      (∀ d mem, s.slot t = some d → d.backing = .owned mem → ws = [0]) ∧
      (∀ d base ctx, s.slot t = some d → d.backing = .borrowed base ctx →
        ws = [0x00000040 ||| t.setWidth 32 <<< 16, ctx, 0]) ∧
      s'.slot t = none ∧ (∀ g, g ≠ t → s'.slot g = s.slot g) ∧ s'.slots.length = s.slots.length ∧
      s'.hostMem = s.hostMem ∧ s'.fault = s.fault ∧ s'.port = s.port ∧ s'.allocDraws = s.allocDraws ∧
      exec (.close t) s' = .next (s'.respond [0])

/-- R173, R174, R175, R176: the four queries of a Live slot. -/
def Obligations.QueriesComplete : Prop :=
  ∀ (s : State) (t : Handle) (d : Drawbuffer), s.slot t = some d →
    exec (.width t) s = .next (s.respond [0, BitVec.ofNat 32 d.w]) ∧
    exec (.height t) s = .next (s.respond [0, BitVec.ofNat 32 d.h]) ∧
    exec (.pixelFormat t) s = .next (s.respond [0, BitVec.ofNat 32 d.fmt.id]) ∧
    exec (.byteLength t) s = .next (s.respond [0, BitVec.ofNat 32 ((d.w * d.h * d.fmt.bpp + 7) / 8)])

/-- R183, R180, R150, R63: GET_PIXEL answers 0x00000000 out of bounds; in bounds it decodes the pixel's bytes at i*n, read
little-endian, or for mono1 bit 7 - (i mod 8) of byte i/8, with i = y*w + x. It writes nothing. R60, R62: the byte at an
offset is the array's own, or host memory's at base + offset, so that Borrowed slots see each other's writes (R74). -/
def Obligations.GetPixelReadsTheStoredPixel : Prop :=
  ∀ (s : State) (t : Handle) (d : Drawbuffer) (x y : Word), s.slot t = some d → d.addressable = true →
    (∀ off, (∀ mem, d.backing = .owned mem → s.readByte t off = mem.read off) ∧
      ∀ base ctx, d.backing = .borrowed base ctx → s.readByte t off = s.hostMem.read (base.toNat + off)) ∧
    (¬ (0 ≤ x.toInt ∧ x.toInt < d.w ∧ 0 ≤ y.toInt ∧ y.toInt < d.h) →
      exec (.getPixel t x y) s = .next (s.respond [0, 0])) ∧
    (0 ≤ x.toInt → x.toInt < d.w → 0 ≤ y.toInt → y.toInt < d.h →
      let i := y.toInt.toNat * d.w + x.toInt.toNat
      (d.fmt = .mono1 → exec (.getPixel t x y) s =
        .next (s.respond [0, if (s.readByte t (i / 8)).getLsbD (7 - i % 8) then 0xFFFFFFFF else 0x00000000])) ∧
      (d.fmt ≠ .mono1 → ∃ P : Word, exec (.getPixel t x y) s = .next (s.respond [0, dec d.fmt P]) ∧
        P.toNat = ((List.range (d.fmt.bpp / 8)).map fun k =>
          (s.readByte t (i * (d.fmt.bpp / 8) + k)).toNat * 2 ^ (8 * k)).sum))

/-- R184, R181, R67: SET_PIXEL stores what the format keeps of the pixel at (x, y) and changes no other pixel and no other
byte; out of bounds it changes nothing. -/
def Obligations.SetPixelWritesOnePixel : Prop :=
  ∀ (s : State) (t : Handle) (d : Drawbuffer) (x y : Word) (p : Pixel), s.slot t = some d → d.addressable = true →
    (∃ s', exec (.setPixel t x y p) s = .next s' ∧ Drawn s s' t d [(x.toInt, y.toInt)] fun _ => p) ∧
    (¬ (0 ≤ x.toInt ∧ x.toInt < d.w ∧ 0 ≤ y.toInt ∧ y.toInt < d.h) →
      exec (.setPixel t x y p) s = .next (s.respond [0]))

/-- R151, R63, R67, R185: set_px at an in-bounds pixel writes enc's bytes at i*n, or for mono1 the one bit 7 - (i mod 8)
of byte i/8 and no other bit of it; get_px then reads what the format keeps, and every other pixel as before. -/
def Obligations.SetPxThenGetPx : Prop :=
  ∀ (s : State) (t : Handle) (d : Drawbuffer) (x y : ℕ) (p : Pixel), s.slot t = some d → x < d.w → y < d.h →
    let s' := s.setPx t x y p
    let i := y * d.w + x
    s'.getPx t x y = quant d.fmt p ∧
    (∀ x' y' : ℤ, (x', y') ≠ ((x : ℤ), (y : ℤ)) → s'.getPx t x' y' = s.getPx t x' y') ∧
    (d.fmt ≠ .mono1 → ∀ k < d.fmt.bpp / 8,
      s'.readByte t (i * (d.fmt.bpp / 8) + k) = (enc d.fmt p).extractLsb' (8 * k) 8) ∧
    (d.fmt = .mono1 → ∀ k < 8, (s'.readByte t (i / 8)).getLsbD k =
      if k = 7 - i % 8 then (enc d.fmt p).getLsbD 0 else (s.readByte t (i / 8)).getLsbD k)

/-- R186, R95: DUMP answers n = byte_length and ceil(n/4) words whose bytes, little-endian in each word, are the region's
n bytes and then zeros; it writes nothing. -/
def Obligations.DumpReturnsTheRegion : Prop :=
  ∀ (s : State) (t : Handle) (d : Drawbuffer), s.slot t = some d → d.addressable = true →
    ∃ ws : List Word, exec (.dump t) s = .next (s.respond (0 :: BitVec.ofNat 32 d.byteLength :: ws)) ∧
      ws.length = (d.byteLength + 3) / 4 ∧
      ∀ k < 4 * ws.length, ((ws.getD (k / 4) 0).extractLsb' (8 * (k % 4)) 8) =
        if k < d.byteLength then s.readByte t k else 0

/-- R187, R93, R70: LOAD of exactly byte_length bytes stores data byte k, bits [8(k mod 4)+7 : 8(k mod 4)] of word k/4, at
offset k for every k, padding bits included, and changes nothing else; any other count is LengthMismatch and changes
nothing. -/
def Obligations.LoadStoresVerbatim : Prop :=
  ∀ (s : State) (t : Handle) (d : Drawbuffer) (n : Word) (data : List Word), s.slot t = some d →
    (n.toNat ≠ d.byteLength → exec (.load t n data) s = .next (s.respond [0x00000004])) ∧
    (n.toNat = d.byteLength → d.addressable = true → (Instr.load t n data).wellFormed = true →
      ∃ s', exec (.load t n data) s = .next s' ∧ s'.resp = s.resp ++ [0] ∧
        (∀ k < d.byteLength, s'.readByte t k = (data.getD (k / 4) 0).extractLsb' (8 * (k % 4)) 8) ∧
        BufferFrame s s' t d fun off => off < d.byteLength)

/-- R188, R70: CLEAR with channels in [0, 255] makes every pixel read as what the format keeps of it and writes no mono1
padding bit; with a channel outside, InvalidChannelValue and nothing changes. -/
def Obligations.ClearFillsEveryPixel : Prop :=
  ∀ (s : State) (t : Handle) (d : Drawbuffer) (r g b a : Word), s.slot t = some d →
    (¬ (0 ≤ r.toInt ∧ r.toInt ≤ 255 ∧ 0 ≤ g.toInt ∧ g.toInt ≤ 255 ∧ 0 ≤ b.toInt ∧ b.toInt ≤ 255 ∧
        0 ≤ a.toInt ∧ a.toInt ≤ 255) →
      exec (.clear t r g b a) s = .next (s.respond [0x00000005])) ∧
    (0 ≤ r.toInt → r.toInt ≤ 255 → 0 ≤ g.toInt → g.toInt ≤ 255 → 0 ≤ b.toInt → b.toInt ≤ 255 →
      0 ≤ a.toInt → a.toInt ≤ 255 → d.addressable = true →
      ∃ s', exec (.clear t r g b a) s = .next s' ∧ s'.resp = s.resp ++ [0] ∧
        (∀ x y : ℤ, d.inBounds x y = true → s'.getPx t x y =
          quant d.fmt (BitVec.ofInt 32 (r.toInt * 2 ^ 24 + g.toInt * 2 ^ 16 + b.toInt * 2 ^ 8 + a.toInt))) ∧
        PaddingKept s s' t d ∧
        BufferFrame s s' t d fun off => off < d.byteLength)

/-! ### Lines -/

/-- R220, R222: the Bresenham walk has max(|dx|, |dy|) + 1 points, all distinct, from (x0, y0) to (x1, y1), each at most one
step from the one before it in each coordinate. Point i stands, with M the larger of |dx| and |dy|, at the offset
floor((2*i*|dx| + M) / (2*M)) from x0 towards x1 and likewise in y: i itself in the longer coordinate, and in the shorter
the nearest integer to the exact line, a tie going to the larger offset. -/
def Obligations.BresenhamWalk : Prop :=
  ∀ x0 y0 x1 y1 : ℤ,
    let M := max (x1 - x0).natAbs (y1 - y0).natAbs
    (bresenham x0 y0 x1 y1).length = M + 1 ∧
    (∀ i ≤ M, (bresenham x0 y0 x1 y1)[i]? =
      some (x0 + (x1 - x0).sign * ((2 * i * (x1 - x0).natAbs + M) / (2 * M) : ℕ),
        y0 + (y1 - y0).sign * ((2 * i * (y1 - y0).natAbs + M) / (2 * M) : ℕ))) ∧
    (bresenham x0 y0 x1 y1).Nodup ∧
    (bresenham x0 y0 x1 y1).head? = some (x0, y0) ∧ (bresenham x0 y0 x1 y1).getLast? = some (x1, y1) ∧
    (bresenham x0 y0 x1 y1).IsChain fun p q => (q.1 - p.1).natAbs ≤ 1 ∧ (q.2 - p.2).natAbs ≤ 1

/-- R221, R182: LINE and LINE.B put the paint at each point of the walk and change nothing else. -/
def Obligations.LineDraws : Prop :=
  ∀ (s : State) (t : Handle) (d : Drawbuffer) (x0 y0 x1 y1 : Word) (color : Pixel),
    s.slot t = some d → d.addressable = true →
      let pts := bresenham x0.toInt y0.toInt x1.toInt y1.toInt
      (∃ s', exec (.line t x0 y0 x1 y1 color) s = .next s' ∧ Drawn s s' t d pts fun _ => color) ∧
      (∃ s', exec (.lineB t x0 y0 x1 y1 color) s = .next s' ∧ Drawn s s' t d pts fun p => blend p color)

/-- R230: dist2_seg is the least squared distance from the sample point to a point of the segment, and some point of the
segment has it. -/
def Obligations.SegmentDistanceIsLeast : Prop :=
  ∀ x0 y0 x1 y1 px py : ℤ,
    let at2 := fun u : ℚ => ((px : ℚ) - x0 - u * (x1 - x0)) ^ 2 + ((py : ℚ) - y0 - u * (y1 - y0)) ^ 2
    (∃ u : ℚ, 0 ≤ u ∧ u ≤ 1 ∧ dist2Seg x0 y0 x1 y1 px py = at2 u) ∧
    ∀ u : ℚ, 0 ≤ u → u ≤ 1 → dist2Seg x0 y0 x1 y1 px py ≤ at2 u

/-- R230, R232, R280: the model's integer test computes the floor of the real-valued coverage clamp(0.5 - (sqrt(SQ) - r),
0, 1) times paint.a, with r = R/256. -/
def Obligations.FillCoverageIsTheRealFloor : Prop :=
  ∀ (alpha radius256 : ℕ) (sq : ℚ), 0 ≤ sq →
    ((coverageFill alpha radius256 sq : ℕ) : ℤ) =
      ⌊max 0 (min (1 / 2 - (Real.sqrt (sq : ℝ) - (radius256 : ℝ) / 256)) 1) * (alpha : ℝ)⌋

/-- R231: LINE_AA blends, with the coverage-weighted alpha of R230, exactly the pixels where it is positive. -/
def Obligations.LineAaDraws : Prop :=
  ∀ (s : State) (t : Handle) (d : Drawbuffer) (x0 y0 x1 y1 radius : Word) (color : Pixel),
    s.slot t = some d → d.addressable = true →
      ∃ s', exec (.lineAa t x0 y0 x1 y1 radius color) s = .next s' ∧
        DrawnAa s s' t d color fun q => coverageFill (pixA color).toNat radius.toNat
          (dist2Seg x0.toInt y0.toInt x1.toInt y1.toInt q.1 q.2)

/-- R233: a pixel with positive coverage lies in the segment's bounding box grown by r and rounded outward. -/
def Obligations.LineAaCoverageLiesInTheBox : Prop :=
  ∀ (alpha radius256 : ℕ) (x0 y0 x1 y1 px py : ℤ),
    0 < coverageFill alpha radius256 (dist2Seg x0 y0 x1 y1 px py) →
      ⌊((min x0 x1 : ℤ) : ℚ) - radius256 / 256⌋ ≤ px ∧ px ≤ ⌈((max x0 x1 : ℤ) : ℚ) + radius256 / 256⌉ ∧
      ⌊((min y0 y1 : ℤ) : ℚ) - radius256 / 256⌋ ≤ py ∧ py ≤ ⌈((max y0 y1 : ℤ) : ℚ) + radius256 / 256⌉

/-! ### Shapes -/

/-- R250: the pixels of a fill are those of the clamped box, the pixels of an outline those on the clamped box's
perimeter, each once and in raster order. -/
def Obligations.RectanglePixelSets : Prop :=
  ∀ (W H : ℕ) (x y w h : ℤ) (q : Point),
    let inBox := max x 0 ≤ q.1 ∧ q.1 < min (x + w) W ∧ max y 0 ≤ q.2 ∧ q.2 < min (y + h) H
    (q ∈ rectPoints W H x y w h .fill ↔ inBox) ∧
    (q ∈ rectPoints W H x y w h .outline ↔ inBox ∧
      (q.1 = max x 0 ∨ q.1 = min (x + w) W - 1 ∨ q.2 = max y 0 ∨ q.2 = min (y + h) H - 1)) ∧
    ∀ shape, (rectPoints W H x y w h shape).Pairwise rasterLt

/-- R251: the four RECT commands put the paint once at each pixel of their set and change nothing else. -/
def Obligations.RectDraws : Prop :=
  ∀ (s : State) (t : Handle) (d : Drawbuffer) (x y w h : Word) (color : Pixel),
    s.slot t = some d → d.addressable = true →
      let pts := rectPoints d.w d.h x.toInt y.toInt w.toInt h.toInt
      (∃ s', exec (.rectF t x y w h color) s = .next s' ∧ Drawn s s' t d (pts .fill) fun _ => color) ∧
      (∃ s', exec (.rectFB t x y w h color) s = .next s' ∧ Drawn s s' t d (pts .fill) fun p => blend p color) ∧
      (∃ s', exec (.rectO t x y w h color) s = .next s' ∧ Drawn s s' t d (pts .outline) fun _ => color) ∧
      (∃ s', exec (.rectOB t x y w h color) s = .next s' ∧ Drawn s s' t d (pts .outline) fun p => blend p color)

/-- R261: the two TRIANGLE commands put the paint at each pixel as often as it stands in the spans (how often that is,
TriangleGeometry says) and change nothing else. -/
def Obligations.TriangleDraws : Prop :=
  ∀ (s : State) (t : Handle) (d : Drawbuffer) (x0 y0 x1 y1 x2 y2 : Word) (color : Pixel),
    s.slot t = some d → d.addressable = true →
      let pts := trianglePoints d.h (x0.toInt, y0.toInt) (x1.toInt, y1.toInt) (x2.toInt, y2.toInt)
      (∃ s', exec (.triangle t x0 y0 x1 y1 x2 y2 color) s = .next s' ∧ Drawn s s' t d pts fun _ => color) ∧
      (∃ s', exec (.triangleB t x0 y0 x1 y1 x2 y2 color) s = .next s' ∧ Drawn s s' t d pts fun p => blend p color)

/-- R260, R261: the order in which the vertices are given does not matter, and every pixel drawn lies in the vertices'
bounding box. For vertices a, b, c sorted by y: a culled triangle draws nothing; one on a single row draws its span once;
any other draws a pixel once for the part above b's row, between the edges a-b and a-c, and once for the part below,
between the edges b-c and a-c, each part with b's row in it, so that a split row is drawn twice. -/
def Obligations.TriangleGeometry : Prop :=
  ∀ (H : ℕ) (a b c : Point),
    trianglePoints H b a c = trianglePoints H a b c ∧ trianglePoints H a c b = trianglePoints H a b c ∧
    (∀ q ∈ trianglePoints H a b c,
      min (min a.1 b.1) c.1 ≤ q.1 ∧ q.1 ≤ max (max a.1 b.1) c.1 ∧
      min (min a.2 b.2) c.2 ≤ q.2 ∧ q.2 ≤ max (max a.2 b.2) c.2) ∧
    (a.2 ≤ b.2 → b.2 ≤ c.2 →
      ((c.2 < 0 ∨ (H : ℤ) ≤ a.2) → trianglePoints H a b c = []) ∧
      (0 ≤ c.2 → a.2 < H → ∀ x y : ℤ,
        (a.2 = c.2 → (trianglePoints H a b c).count (x, y) =
          if y = a.2 ∧ min (min a.1 b.1) c.1 ≤ x ∧ x ≤ max (max a.1 b.1) c.1 then 1 else 0) ∧
        (a.2 < c.2 → (trianglePoints H a b c).count (x, y) =
          (if a.2 < b.2 ∧ a.2 ≤ y ∧ y ≤ b.2 ∧ onSpan (crossing a b y) (crossing a c y) x then 1 else 0) +
          (if b.2 < c.2 ∧ b.2 ≤ y ∧ y ≤ c.2 ∧ onSpan (crossing b c y) (crossing a c y) x then 1 else 0))))

/-- R270, R271: the disc is the integer distance test; both sets are listed in raster order with no repeats; a negative
radius draws nothing and radius 0 the centre; the outline has the eight symmetries, and in the octant 0 ≤ v ≤ u it is the
midpoint circle of radius r ≥ 1: the pixels with u^2 + v^2 - u < r^2 ≤ u^2 + v^2 + u. -/
def Obligations.CirclePixelSets : Prop :=
  ∀ (cx cy r : ℤ) (u v : ℤ),
    ((cx + u, cy + v) ∈ circlePoints cx cy r .fill ↔ 0 ≤ r ∧ u ^ 2 + v ^ 2 ≤ r ^ 2) ∧
    (∀ shape, (circlePoints cx cy r shape).Pairwise rasterLt) ∧
    (r < 0 → circlePoints cx cy r .outline = []) ∧ (r = 0 → circlePoints cx cy r .outline = [(cx, cy)]) ∧
    (1 ≤ r → 0 ≤ v → v ≤ u → ((cx + u, cy + v) ∈ circlePoints cx cy r .outline ↔
      u ^ 2 + v ^ 2 - u < r ^ 2 ∧ r ^ 2 ≤ u ^ 2 + v ^ 2 + u)) ∧
    ((cx + u, cy + v) ∈ circlePoints cx cy r .outline → (cx - u, cy + v) ∈ circlePoints cx cy r .outline ∧
      (cx + u, cy - v) ∈ circlePoints cx cy r .outline ∧ (cx + v, cy + u) ∈ circlePoints cx cy r .outline)

/-- R271: the four CIRCLE commands put the paint once at each pixel of their set and change nothing else. -/
def Obligations.CircleDraws : Prop :=
  ∀ (s : State) (t : Handle) (d : Drawbuffer) (cx cy r : Word) (color : Pixel),
    s.slot t = some d → d.addressable = true →
      let pts := circlePoints cx.toInt cy.toInt r.toInt
      (∃ s', exec (.circleF t cx cy r color) s = .next s' ∧ Drawn s s' t d (pts .fill) fun _ => color) ∧
      (∃ s', exec (.circleFB t cx cy r color) s = .next s' ∧ Drawn s s' t d (pts .fill) fun p => blend p color) ∧
      (∃ s', exec (.circleO t cx cy r color) s = .next s' ∧ Drawn s s' t d (pts .outline) fun _ => color) ∧
      (∃ s', exec (.circleOB t cx cy r color) s = .next s' ∧ Drawn s s' t d (pts .outline) fun p => blend p color)

/-- R280: the ring's integer tests compute the floor of clamp(0.5 - |sqrt(SQ) - r|, 0, 1) times paint.a, which never
exceeds paint.a / 2. -/
def Obligations.RingCoverageIsTheRealFloor : Prop :=
  ∀ (alpha radius256 : ℕ) (sq : ℤ), 0 ≤ sq →
    ((coverageRing alpha radius256 sq : ℕ) : ℤ) =
      ⌊max 0 (min (1 / 2 - |Real.sqrt (sq : ℝ) - (radius256 : ℝ) / 256|) 1) * (alpha : ℝ)⌋ ∧
    coverageRing alpha radius256 sq ≤ alpha / 2

/-- R281: the two CIRCLE_AA commands blend, with the coverage-weighted alpha of R280, exactly the pixels where it is
positive. -/
def Obligations.CircleAaDraws : Prop :=
  ∀ (s : State) (t : Handle) (d : Drawbuffer) (cx cy radius : Word) (color : Pixel),
    s.slot t = some d → d.addressable = true →
      (∃ s', exec (.circleAaF t cx cy radius color) s = .next s' ∧
        DrawnAa s s' t d color fun q => coverageFill (pixA color).toNat radius.toNat
          (((q.1 - cx.toInt) ^ 2 + (q.2 - cy.toInt) ^ 2 : ℤ) : ℚ)) ∧
      (∃ s', exec (.circleAaO t cx cy radius color) s = .next s' ∧
        DrawnAa s s' t d color fun q => coverageRing (pixA color).toNat radius.toNat
          ((q.1 - cx.toInt) ^ 2 + (q.2 - cy.toInt) ^ 2))

/-! ### Dithering -/

/-- R291, R292: DITHER and DITHER.D complete, by R291's turn at every pixel in raster order; the turn quantises the pixel
and puts floored, saturating shares on its four neighbours, in R291's order; a format id outside the registry is
UnsupportedFormat. -/
def Obligations.DitherCompletes : Prop :=
  (∀ (s : State) (t : Handle) (d : Drawbuffer) (arg : Word), s.slot t = some d →
    let loop := fun m : Masks => (List.range d.h).foldl (fun s y => (List.range d.w).foldl (fun s x =>
      s.ditherPx t m ((x : ℤ), (y : ℤ))) s) s
    (d.addressable = true → exec (.dither t arg) s =
      .next ((loop ⟨arg.extractLsb' 24 8, arg.extractLsb' 16 8, arg.extractLsb' 8 8⟩).respond [0])) ∧
    (10 < arg.toNat → exec (.ditherD t arg) s = .next (s.respond [0x00000002])) ∧
    (∀ f : Format, f.id = arg.toNat → d.addressable = true → exec (.ditherD t arg) s =
      .next ((loop f.standardMasks).respond [0]))) ∧
  ∀ (s : State) (t : Handle) (m : Masks) (x y : ℤ),
    let p := s.getPx t x y
    let e := fun (c : Byte) (mask : Byte) => c.toNat - (c &&& mask).toNat
    let share := fun (s : State) (x y : ℤ) (wt : ℕ) =>
      let n := s.getPx t x y
      s.setPx t x y (pix (BitVec.ofNat 8 (min 255 ((pixR n).toNat + e (pixR p) m.mr * wt / 16)))
        (BitVec.ofNat 8 (min 255 ((pixG n).toNat + e (pixG p) m.mg * wt / 16)))
        (BitVec.ofNat 8 (min 255 ((pixB n).toNat + e (pixB p) m.mb * wt / 16))) (pixA n))
    s.ditherPx t m (x, y) =
      share (share (share (share (s.setPx t x y (pix (pixR p &&& m.mr) (pixG p &&& m.mg) (pixB p &&& m.mb) (pixA p)))
        (x + 1) y 7) (x - 1) (y + 1) 3) x (y + 1) 5) (x + 1) (y + 1) 1

/-- R290: the standard masks by format id, as (mr, mg, mb). -/
def Obligations.StandardMasksTable : Prop :=
  Format.all.map (fun f => (f.id, f.standardMasks.mr, f.standardMasks.mg, f.standardMasks.mb)) =
    [(0, 0x80, 0x80, 0x80), (1, 0xFF, 0xFF, 0xFF), (2, 0xE0, 0xE0, 0xC0), (3, 0xF8, 0xFC, 0xF8),
     (4, 0xF8, 0xFC, 0xF8), (5, 0xFF, 0xFF, 0xFF), (6, 0xFF, 0xFF, 0xFF), (7, 0xFF, 0xFF, 0xFF),
     (8, 0xFF, 0xFF, 0xFF), (9, 0xFF, 0xFF, 0xFF), (10, 0xFF, 0xFF, 0xFF)]

/-- R294 (1) and (2): where the masks clear no bit that the buffer's format can store, DITHER and DITHER.D change no byte
of any memory; every format's own standard masks are such, mono1's apart, and so are masks 0xFF. -/
def Obligations.DitherKeepsQuantisedBuffers : Prop :=
  (∀ (s s' : State) (t : Handle) (d : Drawbuffer) (arg : Word) (m : Masks) (i : Instr), s.slot t = some d →
    ((i = .dither t arg ∧ m = ⟨arg.extractLsb' 24 8, arg.extractLsb' 16 8, arg.extractLsb' 8 8⟩) ∨
      (i = .ditherD t arg ∧ ∃ f : Format, f.id = arg.toNat ∧ m = f.standardMasks)) →
    (∀ P : Word, pixR (dec d.fmt P) &&& m.mr = pixR (dec d.fmt P) ∧
      pixG (dec d.fmt P) &&& m.mg = pixG (dec d.fmt P) ∧ pixB (dec d.fmt P) &&& m.mb = pixB (dec d.fmt P)) →
    exec i s = .next s' →
      (∀ off, s'.readByte t off = s.readByte t off) ∧ ∀ a, s'.hostMem.read a = s.hostMem.read a) ∧
  ∀ (f : Format) (m : Masks) (P : Word), (m = ⟨0xFF, 0xFF, 0xFF⟩ ∨ (f ≠ .mono1 ∧ m = f.standardMasks)) →
    pixR (dec f P) &&& m.mr = pixR (dec f P) ∧ pixG (dec f P) &&& m.mg = pixG (dec f P) ∧
      pixB (dec f P) &&& m.mb = pixB (dec f P)

/-- R291, R294 (3): after DITHER on a 24- or 32-bit buffer every pixel's colour channels lie on the masks' grid, its alpha
is as before; in any format mono1's padding bits and everything outside the buffer's bytes are as before. -/
def Obligations.DitherQuantisesEveryPixel : Prop :=
  ∀ (s : State) (t : Handle) (d : Drawbuffer) (arg : Word), s.slot t = some d → d.addressable = true →
    ∃ s', exec (.dither t arg) s = .next s' ∧ s'.resp = s.resp ++ [0] ∧
      (d.fmt.keepsColour → ∀ x y : ℤ, d.inBounds x y = true →
        pixR (s'.getPx t x y) &&& ~~~(arg.extractLsb' 24 8) = 0 ∧
        pixG (s'.getPx t x y) &&& ~~~(arg.extractLsb' 16 8) = 0 ∧
        pixB (s'.getPx t x y) &&& ~~~(arg.extractLsb' 8 8) = 0 ∧
        pixA (s'.getPx t x y) = pixA (s.getPx t x y)) ∧
      PaddingKept s s' t d ∧
      BufferFrame s s' t d fun off => off < d.byteLength

/-! ### The compositor -/

/-- R300, R301, R302, R330, R362 (1): COMPOSE completes for every pair of Live slots, S = T and aliased Borrowed slots
included, by R301's loop: j outer, i inner, the source pixel read, then its block written, v outer, u inner, each write
under the policy; a scale below 1 is InvalidDimension, and AlphaBlend with a scale above 1 IncompatibleOperation, and
nothing changes then. -/
def Obligations.ComposeCompletes : Prop :=
  ∀ (s : State) (t src : Handle) (dt ds : Drawbuffer) (tx ty sx sy w h kx ky : Word),
    s.slot t = some dt → s.slot src = some ds →
    let loop := fun write : State → Pixel → ℤ → ℤ → State =>
      (List.range h.toInt.toNat).foldl (fun s j => (List.range w.toInt.toNat).foldl (fun s i =>
        let p := s.getPx src (sx.toInt + (i : ℤ)) (sy.toInt + (j : ℤ))
        (List.range ky.toInt.toNat).foldl (fun s v => (List.range kx.toInt.toNat).foldl (fun s u =>
          write s p (tx.toInt + (i : ℤ) * kx.toInt + (u : ℤ)) (ty.toInt + (j : ℤ) * ky.toInt + (v : ℤ))) s) s) s) s
    ((kx.toInt < 1 ∨ ky.toInt < 1) →
      exec (.composeOp t src tx ty sx sy w h kx ky) s = .next (s.respond [0x00000001]) ∧
      exec (.composeSkip t src tx ty sx sy w h kx ky) s = .next (s.respond [0x00000001]) ∧
      exec (.composeBlend t src tx ty sx sy w h kx ky) s = .next (s.respond [0x00000001])) ∧
    (1 ≤ kx.toInt → 1 ≤ ky.toInt → (1 < kx.toInt ∨ 1 < ky.toInt) →
      exec (.composeBlend t src tx ty sx sy w h kx ky) s = .next (s.respond [0x00000006])) ∧
    (1 ≤ kx.toInt → 1 ≤ ky.toInt → dt.addressable = true → ds.addressable = true →
      exec (.composeOp t src tx ty sx sy w h kx ky) s =
        .next ((loop fun s p x y => s.setPx t x y p).respond [0]) ∧
      exec (.composeSkip t src tx ty sx sy w h kx ky) s =
        .next ((loop fun s p x y => if pixA p = 0 then s else s.setPx t x y p).respond [0]) ∧
      (kx.toInt = 1 → ky.toInt = 1 → exec (.composeBlend t src tx ty sx sy w h kx ky) s =
        .next ((loop fun s p x y => s.setPx t x y (blend (s.getPx t x y) p)).respond [0])))

/-- R300, R301, R302: where source and target are different slots that share no byte (one of them Owned, or two Borrowed
with disjoint regions), a target pixel inside the scaled block takes, under the policy, the source pixel it stands for,
and every other pixel is as before; mono1's padding bits and the bytes outside the target's pixels are too. -/
def Obligations.ComposeCopiesTheRegion : Prop :=
  ∀ (s : State) (t src : Handle) (dt ds : Drawbuffer) (tx ty sx sy w h kx ky : Word) (i : Instr)
    (policy : AlphaPolicy),
    s.slot t = some dt → s.slot src = some ds → dt.addressable = true → ds.addressable = true → t ≠ src →
    ((∃ mem, dt.backing = .owned mem) ∨ (∃ mem, ds.backing = .owned mem) ∨
      ∃ bt ct bs cs, dt.backing = .borrowed bt ct ∧ ds.backing = .borrowed bs cs ∧
        (bt.toNat + dt.byteLength ≤ bs.toNat ∨ bs.toNat + ds.byteLength ≤ bt.toNat)) → 1 ≤ kx.toInt → 1 ≤ ky.toInt →
    ((policy = .overwrite ∧ i = .composeOp t src tx ty sx sy w h kx ky) ∨
      (policy = .skipTransparent ∧ i = .composeSkip t src tx ty sx sy w h kx ky) ∨
      (policy = .alphaBlend ∧ i = .composeBlend t src tx ty sx sy w h kx ky ∧ kx.toInt = 1 ∧ ky.toInt = 1)) →
      ∃ s', exec i s = .next s' ∧ s'.resp = s.resp ++ [0] ∧
        (∀ x y : ℤ, dt.inBounds x y = true →
          let p := s.getPx src (sx.toInt + (x - tx.toInt) / kx.toInt) (sy.toInt + (y - ty.toInt) / ky.toInt)
          let old := s.getPx t x y
          s'.getPx t x y =
            if tx.toInt ≤ x ∧ x < tx.toInt + w.toInt * kx.toInt ∧ ty.toInt ≤ y ∧ y < ty.toInt + h.toInt * ky.toInt then
              match policy with
              | .overwrite => quant dt.fmt p
              | .skipTransparent => if pixA p = 0 then old else quant dt.fmt p
              | .alphaBlend => quant dt.fmt (blend old p)
            else old) ∧
        PaddingKept s s' t dt ∧
        BufferFrame s s' t dt fun off => ∃ q : Point,
          (tx.toInt ≤ q.1 ∧ q.1 < tx.toInt + w.toInt * kx.toInt ∧ ty.toInt ≤ q.2 ∧
            q.2 < ty.toInt + h.toInt * ky.toInt) ∧ dt.pixelHas q off
end

