-- ==== Sys2Proof/Laws/Memory.lean ====
section
/-! SUPPORT. Byte memory: a read after a write, the canonical form, and that equal contents are equal data. -/

namespace Sys2Proof.Machine

/-- Reading past the cells of another address. -/
theorem Memory.read_filter_other (m : Memory) {a b : Nat} (hab : b ≠ a) :
    Memory.read (m.filter fun c => c.1 ≠ a) b = Memory.read m b := by
  induction m with
  | nil => rfl
  | cons c m ih =>
    by_cases hc : c.1 = a
    · have : c.1 ≠ b := fun h => hab (h.symm.trans hc)
      simp [hc, Memory.read] at ih ⊢
      simp [ih, Ne.symm hab]
    · simp only [ne_eq, hc, not_false_eq_true, decide_true, List.filter_cons_of_pos, Memory.read]
      split
      · rfl
      · exact ih

/-- An address no cell has reads as the unlisted byte. -/
theorem Memory.read_of_absent {m : Memory} {a : Nat} (h : ∀ c ∈ m, c.1 ≠ a) : Memory.read m a = unlistedByte := by
  induction m with
  | nil => rfl
  | cons c m ih =>
    simp only [List.mem_cons, forall_eq_or_imp] at h
    simp [Memory.read, h.1, ih h.2]

/-- A cell put in is read at its address, where no other cell has it. -/
theorem Memory.read_insertCell_same {m : Memory} {a : Nat} (v : Byte) (h : ∀ c ∈ m, c.1 ≠ a) :
    Memory.read (Memory.insertCell a v m) a = v := by
  induction m with
  | nil => simp [Memory.insertCell, Memory.read]
  | cons c m ih =>
    simp only [List.mem_cons, forall_eq_or_imp] at h
    unfold Memory.insertCell
    split
    · simp [Memory.read]
    · simp [Memory.read, h.1, ih h.2]

/-- A cell put in is not seen at another address. -/
theorem Memory.read_insertCell_other (m : Memory) {a b : Nat} (v : Byte) (hab : b ≠ a) :
    Memory.read (Memory.insertCell a v m) b = Memory.read m b := by
  induction m with
  | nil => simp [Memory.insertCell, Memory.read, Ne.symm hab]
  | cons c m ih =>
    unfold Memory.insertCell
    split
    · simp [Memory.read, Ne.symm hab]
    · simp only [Memory.read, ih]

theorem Memory.absent_filter (m : Memory) (a : Nat) : ∀ c ∈ m.filter (fun c => c.1 ≠ a), c.1 ≠ a := by
  intro c hc
  simpa using (List.mem_filter.mp hc).2

/-- A read after a write to the same address gives the byte written. -/
@[simp] theorem Memory.read_write_same (m : Memory) (a : Nat) (v : Byte) : Memory.read (Memory.write m a v) a = v := by
  unfold Memory.write
  split
  · next h => rw [Memory.read_of_absent (Memory.absent_filter m a), h]
  · exact Memory.read_insertCell_same v (Memory.absent_filter m a)

/-- A write leaves every other address alone. -/
theorem Memory.read_write_other (m : Memory) {a b : Nat} (v : Byte) (hab : b ≠ a) :
    Memory.read (Memory.write m a v) b = Memory.read m b := by
  unfold Memory.write
  split
  · exact Memory.read_filter_other m hab
  · exact (Memory.read_insertCell_other _ v hab).trans (Memory.read_filter_other m hab)

/-- What one write does, at every address. -/
theorem Memory.read_write (m : Memory) (a b : Nat) (v : Byte) :
    Memory.read (Memory.write m a v) b = if b = a then v else Memory.read m b := by
  by_cases h : b = a
  · subst h; simp
  · simp [h, Memory.read_write_other m v h]

/-- The cells of a memory with one more. -/
theorem Memory.mem_insertCell {m : Memory} {a : Nat} {v : Byte} {c : Host.Cell} :
    c ∈ Memory.insertCell a v m ↔ c = (a, v) ∨ c ∈ m := by
  induction m with
  | nil => simp [Memory.insertCell]
  | cons d m ih =>
    unfold Memory.insertCell
    split
    · simp
    · simp only [List.mem_cons, ih]
      tauto

/-- A write lists at most its own address beside those listed before. -/
theorem Memory.mem_write {m : Memory} {a : Nat} {v : Byte} {c : Host.Cell} (h : c ∈ Memory.write m a v) :
    c = (a, v) ∨ c ∈ m := by
  unfold Memory.write at h
  split at h
  · exact .inr (List.mem_filter.mp h).1
  · exact (Memory.mem_insertCell.mp h).imp_right fun h => (List.mem_filter.mp h).1

theorem Memory.pairwise_insertCell {m : Memory} {a : Nat} (v : Byte)
    (hm : m.Pairwise fun c d => c.1 < d.1) (ha : ∀ c ∈ m, c.1 ≠ a) :
    (Memory.insertCell a v m).Pairwise fun c d => c.1 < d.1 := by
  induction m with
  | nil => simp [Memory.insertCell]
  | cons c m ih =>
    have hc : c.1 ≠ a := ha c (by simp)
    rw [List.pairwise_cons] at hm
    unfold Memory.insertCell
    split
    · next hlt =>
      refine List.pairwise_cons.mpr ⟨fun d hd => ?_, List.pairwise_cons.mpr hm⟩
      rcases List.mem_cons.mp hd with rfl | hd
      · exact hlt
      · exact hlt.trans (hm.1 d hd)
    · refine List.pairwise_cons.mpr ⟨fun d hd => ?_, ih hm.2 fun d hd => ha d (by simp [hd])⟩
      rcases Memory.mem_insertCell.mp hd with rfl | hd
      · simp only; omega
      · exact hm.1 d hd

/-- Every write keeps the canonical form. -/
theorem Memory.wf_write {m : Memory} (h : m.wf) (a : Nat) (v : Byte) : Memory.wf (Memory.write m a v) := by
  have hp : (m.filter fun c => c.1 ≠ a).Pairwise (fun c d => c.1 < d.1) := h.1.filter _
  unfold Memory.write
  split
  · exact ⟨hp, fun c hc => h.2 c (List.mem_filter.mp hc).1⟩
  · next hv =>
    refine ⟨Memory.pairwise_insertCell v hp (Memory.absent_filter m a), fun c hc => ?_⟩
    rcases Memory.mem_insertCell.mp hc with rfl | hc
    · exact hv
    · exact h.2 c (List.mem_filter.mp hc).1

/-- In the canonical form a listed cell is what its address reads as. -/
theorem Memory.read_of_mem {m : Memory} (h : m.wf) {c : Host.Cell} (hc : c ∈ m) : Memory.read m c.1 = c.2 := by
  obtain ⟨hp, -⟩ := h
  induction m with
  | nil => simp at hc
  | cons d m ih =>
    rw [List.pairwise_cons] at hp
    rcases List.mem_cons.mp hc with rfl | hc
    · simp [Memory.read]
    · have : d.1 ≠ c.1 := (hp.1 c hc).ne
      simp [Memory.read, this, ih hc hp.2]

/-- An address that reads as another byte than the unlisted one is listed. -/
theorem Memory.mem_of_read {m : Memory} {a : Nat} (h : Memory.read m a ≠ unlistedByte) : (a, Memory.read m a) ∈ m := by
  induction m with
  | nil => simp [Memory.read] at h
  | cons c m ih =>
    by_cases hc : c.1 = a
    · subst hc; simp [Memory.read]
    · simp only [Memory.read, hc, if_false] at h ⊢
      exact List.mem_cons_of_mem _ (ih h)

/-- Two memories in the canonical form with the same contents are the same data. -/
theorem Memory.ext_of_wf {m n : Memory} (hm : m.wf) (hn : n.wf) (h : ∀ a, Memory.read m a = Memory.read n a) : m = n := by
  have mem_iff : ∀ c : Host.Cell, c ∈ m ↔ c ∈ n := fun c => by
    constructor
    · intro hc
      have h1 := Memory.read_of_mem hm hc
      have := Memory.mem_of_read (m := n) (a := c.1) (by rw [← h, h1]; exact hm.2 c hc)
      rwa [← h, h1] at this
    · intro hc
      have h1 := Memory.read_of_mem hn hc
      have := Memory.mem_of_read (m := m) (a := c.1) (by rw [h, h1]; exact hn.2 c hc)
      rwa [h, h1] at this
  have irrefl {l : Memory} (hl : l.Pairwise fun c d => c.1 < d.1) : l.Nodup :=
    hl.imp fun {c d} hcd => fun e => absurd (congrArg Prod.fst e) hcd.ne
  have perm : m.Perm n := (List.perm_ext_iff_of_nodup (irrefl hm.1) (irrefl hn.1)).mpr mem_iff
  exact perm.eq_of_pairwise (le := fun c d => c.1 < d.1) (fun c d _ _ h1 h2 => absurd h1 h2.asymm) hm.1 hn.1

/-- The memory right after reset is in the canonical form. -/
theorem State.reset_hostMem_wf : Memory.wf State.reset.hostMem := by simp [State.reset, Memory.wf]

end Sys2Proof.Machine
end

