-- ==== Sys2Proof/Laws/State.lean ====
section
/-! SUPPORT. What each update of State does to each field: true by rfl, so that no proof unfolds a record update. -/

namespace Sys2Proof.Machine

@[simp] theorem State.setSlot_slots (s : State) (h : Handle) (d : Option Drawbuffer) :
    (s.setSlot h d).slots = s.slots.set h.toNat d := rfl
@[simp] theorem State.setSlot_fault (s : State) (h : Handle) (d : Option Drawbuffer) :
    (s.setSlot h d).fault = s.fault := rfl
@[simp] theorem State.setSlot_hostMem (s : State) (h : Handle) (d : Option Drawbuffer) :
    (s.setSlot h d).hostMem = s.hostMem := rfl
@[simp] theorem State.setSlot_port (s : State) (h : Handle) (d : Option Drawbuffer) :
    (s.setSlot h d).port = s.port := rfl
@[simp] theorem State.setSlot_resp (s : State) (h : Handle) (d : Option Drawbuffer) :
    (s.setSlot h d).resp = s.resp := rfl
@[simp] theorem State.setSlot_allocDraws (s : State) (h : Handle) (d : Option Drawbuffer) :
    (s.setSlot h d).allocDraws = s.allocDraws := rfl

@[simp] theorem State.respond_slots (s : State) (ws : List Word) :
    (s.respond ws).slots = s.slots := rfl
@[simp] theorem State.respond_fault (s : State) (ws : List Word) :
    (s.respond ws).fault = s.fault := rfl
@[simp] theorem State.respond_hostMem (s : State) (ws : List Word) :
    (s.respond ws).hostMem = s.hostMem := rfl
@[simp] theorem State.respond_port (s : State) (ws : List Word) :
    (s.respond ws).port = s.port := rfl
@[simp] theorem State.respond_resp (s : State) (ws : List Word) :
    (s.respond ws).resp = s.resp ++ ws := rfl
@[simp] theorem State.respond_allocDraws (s : State) (ws : List Word) :
    (s.respond ws).allocDraws = s.allocDraws := rfl

@[simp] theorem State.setPort_slots (s : State) (ws : List Word) :
    (s.setPort ws).slots = s.slots := rfl
@[simp] theorem State.setPort_fault (s : State) (ws : List Word) :
    (s.setPort ws).fault = s.fault := rfl
@[simp] theorem State.setPort_hostMem (s : State) (ws : List Word) :
    (s.setPort ws).hostMem = s.hostMem := rfl
@[simp] theorem State.setPort_port (s : State) (ws : List Word) :
    (s.setPort ws).port = ws := rfl
@[simp] theorem State.setPort_resp (s : State) (ws : List Word) :
    (s.setPort ws).resp = s.resp := rfl
@[simp] theorem State.setPort_allocDraws (s : State) (ws : List Word) :
    (s.setPort ws).allocDraws = s.allocDraws := rfl

@[simp] theorem State.setFaultCause_slots (s : State) (c : FaultCause) :
    (s.setFaultCause c).slots = s.slots := rfl
@[simp] theorem State.setFaultCause_fault (s : State) (c : FaultCause) :
    (s.setFaultCause c).fault = c.code.setWidth 32 := rfl
@[simp] theorem State.setFaultCause_hostMem (s : State) (c : FaultCause) :
    (s.setFaultCause c).hostMem = s.hostMem := rfl
@[simp] theorem State.setFaultCause_port (s : State) (c : FaultCause) :
    (s.setFaultCause c).port = s.port := rfl
@[simp] theorem State.setFaultCause_resp (s : State) (c : FaultCause) :
    (s.setFaultCause c).resp = s.resp := rfl
@[simp] theorem State.setFaultCause_allocDraws (s : State) (c : FaultCause) :
    (s.setFaultCause c).allocDraws = s.allocDraws := rfl

@[simp] theorem State.takeFault_slots (s : State) (c : FaultCause) :
    (s.takeFault c).slots = s.slots := rfl
@[simp] theorem State.takeFault_fault (s : State) (c : FaultCause) :
    (s.takeFault c).fault = c.code.setWidth 32 := rfl
@[simp] theorem State.takeFault_hostMem (s : State) (c : FaultCause) :
    (s.takeFault c).hostMem = s.hostMem := rfl
@[simp] theorem State.takeFault_port (s : State) (c : FaultCause) :
    (s.takeFault c).port = s.port := rfl
@[simp] theorem State.takeFault_resp (s : State) (c : FaultCause) :
    (s.takeFault c).resp = s.resp ++ [statusFaulted c.code] := rfl
@[simp] theorem State.takeFault_allocDraws (s : State) (c : FaultCause) :
    (s.takeFault c).allocDraws = s.allocDraws := rfl

@[simp] theorem State.answerFaulted_slots (s : State) :
    (s.answerFaulted).slots = s.slots := rfl
@[simp] theorem State.answerFaulted_fault (s : State) :
    (s.answerFaulted).fault = s.fault := rfl
@[simp] theorem State.answerFaulted_hostMem (s : State) :
    (s.answerFaulted).hostMem = s.hostMem := rfl
@[simp] theorem State.answerFaulted_port (s : State) :
    (s.answerFaulted).port = s.port := rfl
@[simp] theorem State.answerFaulted_resp (s : State) :
    (s.answerFaulted).resp = s.resp ++ [statusFaulted s.faultCause] := rfl
@[simp] theorem State.answerFaulted_allocDraws (s : State) :
    (s.answerFaulted).allocDraws = s.allocDraws := rfl

@[simp] theorem State.present_slots (s : State) (ws : List Word) :
    (s.present ws).slots = s.slots := rfl
@[simp] theorem State.present_fault (s : State) (ws : List Word) :
    (s.present ws).fault = s.fault := rfl
@[simp] theorem State.present_hostMem (s : State) (ws : List Word) :
    (s.present ws).hostMem = s.hostMem := rfl
@[simp] theorem State.present_port (s : State) (ws : List Word) :
    (s.present ws).port = s.port ++ ws := rfl
@[simp] theorem State.present_resp (s : State) (ws : List Word) :
    (s.present ws).resp = s.resp := rfl
@[simp] theorem State.present_allocDraws (s : State) (ws : List Word) :
    (s.present ws).allocDraws = s.allocDraws := rfl

@[simp] theorem State.hostWrite_slots (s : State) (a : HostAddr) (v : Byte) :
    (s.hostWrite a v).slots = s.slots := rfl
@[simp] theorem State.hostWrite_fault (s : State) (a : HostAddr) (v : Byte) :
    (s.hostWrite a v).fault = s.fault := rfl
@[simp] theorem State.hostWrite_hostMem (s : State) (a : HostAddr) (v : Byte) :
    (s.hostWrite a v).hostMem = s.hostMem.write a.toNat v := rfl
@[simp] theorem State.hostWrite_port (s : State) (a : HostAddr) (v : Byte) :
    (s.hostWrite a v).port = s.port := rfl
@[simp] theorem State.hostWrite_resp (s : State) (a : HostAddr) (v : Byte) :
    (s.hostWrite a v).resp = s.resp := rfl
@[simp] theorem State.hostWrite_allocDraws (s : State) (a : HostAddr) (v : Byte) :
    (s.hostWrite a v).allocDraws = s.allocDraws := rfl

@[simp] theorem State.assertReset_slots (s : State) :
    (s.assertReset).slots = List.replicate s.numSlots none := rfl
@[simp] theorem State.assertReset_fault (s : State) :
    (s.assertReset).fault = 0 := rfl
@[simp] theorem State.assertReset_hostMem (s : State) :
    (s.assertReset).hostMem = s.hostMem := rfl
@[simp] theorem State.assertReset_port (s : State) :
    (s.assertReset).port = [] := rfl
@[simp] theorem State.assertReset_resp (s : State) :
    (s.assertReset).resp = [] := rfl
@[simp] theorem State.assertReset_allocDraws (s : State) :
    (s.assertReset).allocDraws = s.allocDraws := rfl

end Sys2Proof.Machine
end

