-- ==== Sys2Proof/Laws/Ops.lean ====
section
/-! SUPPORT. One law per shared operation of Machine/Ops.lean: the slot table, the buffer spaces, and what each check of a
meaning answers. -/

namespace Sys2Proof.Machine

/-! ### The slot table -/

/-- A Live slot lies in the table. -/
theorem State.lt_of_slot {s : State} {h : Handle} {d : Drawbuffer} (hs : s.slot h = some d) :
    h.toNat < s.slots.length := by
  unfold State.slot at hs
  by_contra hn
  simp [List.getElem?_eq_none (not_lt.mp hn)] at hs

/-- A Live slot, as the table holds it. -/
theorem State.slot_eq_some {s : State} {h : Handle} {d : Drawbuffer} :
    s.slot h = some d ↔ s.slots[h.toNat]? = some (some d) := by
  unfold State.slot
  cases hx : s.slots[h.toNat]? <;> simp

/-- A Live slot's descriptor stands in the table. -/
theorem State.mem_of_slot {s : State} {h : Handle} {d : Drawbuffer} (hs : s.slot h = some d) : some d ∈ s.slots :=
  List.mem_of_getElem? (State.slot_eq_some.mp hs)

/-- The slot of a handle depends on the table only. -/
theorem State.slot_congr {s s' : State} (h : s'.slots = s.slots) (g : Handle) : s'.slot g = s.slot g := by
  unfold State.slot; rw [h]

@[simp] theorem State.slot_respond (s : State) (ws : List Word) (h : Handle) : (s.respond ws).slot h = s.slot h := rfl
@[simp] theorem State.slot_setPort (s : State) (ws : List Word) (h : Handle) : (s.setPort ws).slot h = s.slot h := rfl
@[simp] theorem State.slot_takeFault (s : State) (c : FaultCause) (h : Handle) : (s.takeFault c).slot h = s.slot h := rfl

/-- What setSlot does to every slot. -/
theorem State.slot_setSlot (s : State) (h g : Handle) (d : Option Drawbuffer) :
    (s.setSlot h d).slot g = if g = h ∧ h.toNat < s.slots.length then d else s.slot g := by
  unfold State.slot State.setSlot
  by_cases hg : g = h
  · subst hg
    by_cases hl : g.toNat < s.slots.length
    · simp [hl]
    · simp [hl]
  · have : h.toNat ≠ g.toNat := fun e => hg (BitVec.eq_of_toNat_eq e).symm
    simp [hg, List.getElem?_set_ne this]

theorem State.slot_setSlot_same {s : State} {h : Handle} (d : Option Drawbuffer) (hl : h.toNat < s.slots.length) :
    (s.setSlot h d).slot h = d := by
  simp [State.slot_setSlot, hl]

theorem State.slot_setSlot_other (s : State) {h g : Handle} (d : Option Drawbuffer) (hg : g ≠ h) :
    (s.setSlot h d).slot g = s.slot g := by
  simp [State.slot_setSlot, hg]

@[simp] theorem State.length_setSlot (s : State) (h : Handle) (d : Option Drawbuffer) :
    (s.setSlot h d).slots.length = s.slots.length := by
  simp

/-! ### The buffer spaces -/

theorem Drawbuffer.sameBut_refl (d : Drawbuffer) : d.sameBut d := by
  obtain ⟨w, h, f, _ | _⟩ := d <;> simp [Drawbuffer.sameBut]

theorem Drawbuffer.sameBut_trans {d e f : Drawbuffer} (h1 : d.sameBut e) (h2 : e.sameBut f) : d.sameBut f := by
  obtain ⟨w, h, fm, b⟩ := d
  obtain ⟨w', h', fm', b'⟩ := e
  obtain ⟨w'', h'', fm'', b''⟩ := f
  cases b <;> cases b' <;> cases b'' <;> simp_all [Drawbuffer.sameBut]

theorem Drawbuffer.sameBut.byteLength_eq {d e : Drawbuffer} (h : d.sameBut e) : e.byteLength = d.byteLength := by
  obtain ⟨hw, hh, hf, -⟩ := h
  simp [Drawbuffer.byteLength, hw, hh, hf]

theorem Drawbuffer.sameBut.addressable_eq {d e : Drawbuffer} (h : d.sameBut e) : e.addressable = d.addressable := by
  have hb := h.byteLength_eq
  obtain ⟨-, -, -, hk⟩ := h
  unfold Drawbuffer.addressable
  cases hd : d.backing <;> simp only [hd] at hk ⊢
  · obtain ⟨mem, hm⟩ := hk; simp [hm]
  · simp [hk, hb]

/-- Everything a write of one byte can do. -/
theorem State.writeByte_cases (s : State) (h : Handle) (off : Nat) (v : Byte) :
    s.writeByte h off v = s ∨
    ∃ d, s.slot h = some d ∧ off < d.byteLength ∧
      ((∃ mem, d.backing = .owned mem ∧
          s.writeByte h off v = s.setSlot h (some { d with backing := .owned (mem.write off v) })) ∨
       (∃ base ctx, d.backing = .borrowed base ctx ∧
          s.writeByte h off v = { s with hostMem := s.hostMem.write (base.toNat + off) v })) := by
  unfold State.writeByte
  cases hs : s.slot h with
  | none => exact .inl rfl
  | some d =>
    by_cases ho : off < d.byteLength
    · refine .inr ⟨d, rfl, ho, ?_⟩
      cases hb : d.backing with
      | owned mem => exact .inl ⟨mem, rfl, by simp [ho, hb]⟩
      | borrowed base ctx => exact .inr ⟨base, ctx, rfl, by simp [ho, hb]⟩
    · exact .inl (by simp [ho])

/-- A write of one byte touches slots and host memory only. -/
theorem State.writeByte_frame (s : State) (h : Handle) (off : Nat) (v : Byte) :
    (s.writeByte h off v).fault = s.fault ∧ (s.writeByte h off v).port = s.port ∧
    (s.writeByte h off v).resp = s.resp ∧ (s.writeByte h off v).allocDraws = s.allocDraws ∧
    (s.writeByte h off v).slots.length = s.slots.length := by
  rcases s.writeByte_cases h off v with e | ⟨d, -, -, ⟨m, -, e⟩ | ⟨b, c, -, e⟩⟩ <;> rw [e] <;> simp

/-- A write of one byte leaves the other slots, and of its own slot everything but the owned array. -/
theorem State.writeByte_slot (s : State) (h : Handle) (off : Nat) (v : Byte) :
    (∀ g, g ≠ h → (s.writeByte h off v).slot g = s.slot g) ∧
    (s.slot h = none → (s.writeByte h off v).slot h = none) ∧
    (∀ d, s.slot h = some d → ∃ d', (s.writeByte h off v).slot h = some d' ∧ d.sameBut d') := by
  rcases s.writeByte_cases h off v with e | ⟨d, hs, ho, ⟨m, hb, e⟩ | ⟨b, c, hb, e⟩⟩
  · rw [e]
    exact ⟨fun _ _ => rfl, id, fun d hd => ⟨d, hd, d.sameBut_refl⟩⟩
  · rw [e]
    refine ⟨fun g hg => State.slot_setSlot_other s _ hg, fun hn => by simp [hn] at hs, fun d' hd' => ?_⟩
    obtain rfl : d = d' := by rw [hs] at hd'; exact Option.some.inj hd'
    exact ⟨_, State.slot_setSlot_same _ (State.lt_of_slot hs), by simp [Drawbuffer.sameBut, hb]⟩
  · rw [e]
    exact ⟨fun _ _ => rfl, id, fun d hd => ⟨d, hd, d.sameBut_refl⟩⟩

/-- What a write of one byte does to every byte of its own buffer's space. -/
theorem State.readByte_writeByte {s : State} {h : Handle} {d : Drawbuffer} (hs : s.slot h = some d) {off : Nat}
    (ho : off < d.byteLength) (v : Byte) (off' : Nat) :
    (s.writeByte h off v).readByte h off' = if off' = off then v else s.readByte h off' := by
  have hl := State.lt_of_slot hs
  cases hb : d.backing with
  | owned m =>
    have e : s.writeByte h off v = s.setSlot h (some { d with backing := .owned (m.write off v) }) := by
      simp [State.writeByte, hs, ho, hb]
    rw [e]
    unfold State.readByte
    simp only [State.slot_setSlot_same _ hl, hs, hb, Memory.read_write]
  | borrowed b c =>
    have e : s.writeByte h off v = { s with hostMem := s.hostMem.write (b.toNat + off) v } := by
      simp [State.writeByte, hs, ho, hb]
    have es : State.slot { s with hostMem := s.hostMem.write (b.toNat + off) v } h = some d := hs
    rw [e]
    unfold State.readByte
    simp only [es, hs, hb, Memory.read_write]
    simp

/-- A write of one byte changes host memory only inside a Borrowed region, at base + off. -/
theorem State.hostMem_writeByte (s : State) (h : Handle) (off : Nat) (v : Byte) (a : Nat)
    (ha : ∀ d base ctx, s.slot h = some d → d.backing = .borrowed base ctx → off < d.byteLength →
      a ≠ base.toNat + off) :
    (s.writeByte h off v).hostMem.read a = s.hostMem.read a := by
  rcases s.writeByte_cases h off v with e | ⟨d, hs, ho, ⟨m, hb, e⟩ | ⟨b, c, hb, e⟩⟩ <;> rw [e]
  · rfl
  · exact Memory.read_write_other _ _ (ha d b c hs hb ho)

/-! ### The checks of the meanings -/

theorem withEmpty_pass {t : Handle} {s : State} (h : s.slots[t.toNat]? = some none) (k : Result) :
    withEmpty t s k = k := by
  simp [withEmpty, State.slotEmpty, h]

theorem withEmpty_fail {t : Handle} {s : State} (h : s.slots[t.toNat]? ≠ some none) (k : Result) :
    withEmpty t s k = .next (s.takeFault .badHandle) := by
  simp [withEmpty, State.slotEmpty, h]

theorem withExisting_pass {t : Handle} {s : State} (h : t.toNat < s.slots.length) (k : Option Drawbuffer → Result) :
    withExisting t s k = k (s.slot t) := by
  simp [withExisting, State.slotExists, State.numSlots, h]

theorem withExisting_fail {t : Handle} {s : State} (h : ¬ t.toNat < s.slots.length)
    (k : Option Drawbuffer → Result) : withExisting t s k = .next (s.takeFault .badHandle) := by
  simp [withExisting, State.slotExists, State.numSlots, h]

theorem withLive_pass {t : Handle} {s : State} {d : Drawbuffer} (h : s.slot t = some d) (k : Drawbuffer → Result) :
    withLive t s k = k d := by
  simp [withLive, h]

theorem withLive_fail {t : Handle} {s : State} (h : s.slot t = none) (k : Drawbuffer → Result) :
    withLive t s k = .next (s.takeFault .badHandle) := by
  simp [withLive, h]

theorem onMemory_pass {d : Drawbuffer} (h : d.addressable = true) (k : Result) : onMemory d k = k := by
  simp [onMemory, h]

theorem withFormat_pass {fmt : U32} {f : Format} (h : Format.ofId? (u32 fmt) = some f) (s : State)
    (k : Format → Result) : withFormat fmt s k = k f := by
  simp [withFormat, h]

theorem withFormat_fail {fmt : U32} (h : Format.ofId? (u32 fmt) = none) (s : State) (k : Format → Result) :
    withFormat fmt s k = s.raise .unsupportedFormat := by
  simp [withFormat, h]

theorem withDimensions_pass {w h : S32} (hw : 0 < s32 w) (hh : 0 < s32 h) (s : State) (k : Nat → Nat → Result) :
    withDimensions w h s k = k (s32 w).toNat (s32 h).toNat := by
  simp [withDimensions, not_le.mpr hw, not_le.mpr hh]

theorem withDimensions_fail {w h : S32} (hwh : s32 w ≤ 0 ∨ s32 h ≤ 0) (s : State) (k : Nat → Nat → Result) :
    withDimensions w h s k = s.raise .invalidDimension := by
  simp [withDimensions, hwh]

/-- If a command on a Live slot's memory answers a next state, the slot is not Live and BadHandle is taken, or the slot
is Live, its region exists, and the command's own effect answers it. -/
theorem withLive_next {t : Handle} {s s' : State} {k : Drawbuffer → Result} (h : withLive t s k = .next s') :
    (s.slot t = none ∧ s' = s.takeFault .badHandle) ∨ ∃ d, s.slot t = some d ∧ k d = .next s' := by
  unfold withLive at h
  split at h
  · next d hd => exact .inr ⟨d, hd, h⟩
  · next hn => exact .inl ⟨hn, (Host.Outcome.next.inj h).symm⟩

theorem onMemory_next {d : Drawbuffer} {k : Result} {s' : State} (h : onMemory d k = .next s') :
    d.addressable = true ∧ k = .next s' := by
  unfold onMemory at h
  split at h
  · next ha => exact ⟨ha, h⟩
  · cases h

/-- If a command with a format argument answers a next state, it is the error or the command's own effect. -/
theorem withFormat_next {fmt : U32} {s s' : State} {k : Format → Result} (h : withFormat fmt s k = .next s') :
    (Format.ofId? (u32 fmt) = none ∧ s' = s.respond [statusError .unsupportedFormat]) ∨
      ∃ f, Format.ofId? (u32 fmt) = some f ∧ k f = .next s' := by
  unfold withFormat at h
  split at h
  · next f hf => exact .inr ⟨f, hf, h⟩
  · next hn => exact .inl ⟨hn, (Host.Outcome.next.inj h).symm⟩

theorem withDimensions_next {w h : S32} {s s' : State} {k : Nat → Nat → Result}
    (hk : withDimensions w h s k = .next s') :
    ((s32 w ≤ 0 ∨ s32 h ≤ 0) ∧ s' = s.respond [statusError .invalidDimension]) ∨
      (0 < s32 w ∧ 0 < s32 h ∧ k (s32 w).toNat (s32 h).toNat = .next s') := by
  unfold withDimensions at hk
  split at hk
  · next hc => exact .inl ⟨hc, (Host.Outcome.next.inj hk).symm⟩
  · next hc =>
    rw [not_or, not_le, not_le] at hc
    exact .inr ⟨hc.1, hc.2, hk⟩

/-! ### Ranges -/

theorem mem_intRange {a b x : Int} : x ∈ intRange a b ↔ a ≤ x ∧ x ≤ b := by
  simp only [intRange, List.mem_map, List.mem_range]
  constructor
  · rintro ⟨k, hk, rfl⟩; omega
  · rintro ⟨h1, h2⟩; exact ⟨(x - a).toNat, by omega, by omega⟩

theorem mem_rasterBox {xa xb ya yb : Int} {q : Point} :
    q ∈ rasterBox xa xb ya yb ↔ xa ≤ q.1 ∧ q.1 ≤ xb ∧ ya ≤ q.2 ∧ q.2 ≤ yb := by
  obtain ⟨x, y⟩ := q
  simp only [rasterBox, List.mem_flatMap, List.mem_map, mem_intRange, Prod.mk.injEq]
  constructor
  · rintro ⟨y', hy, x', hx, rfl, rfl⟩; exact ⟨hx.1, hx.2, hy.1, hy.2⟩
  · rintro ⟨h1, h2, h3, h4⟩; exact ⟨y, ⟨h3, h4⟩, x, ⟨h1, h2⟩, rfl, rfl⟩

end Sys2Proof.Machine
end

