-- ==== Sys2Proof/Laws/Drawing.lean ====
section
/-! SUPPORT. Every command that writes pixels or loads bytes does so by byte writes to its target's space: said once, so
that a property of one byte write is a property of them all. -/

namespace Sys2Proof.Machine

/-- s' comes from s by finitely many byte writes to buffer t's space. -/
inductive ByteWrites (t : Handle) (s : State) : State → Prop
  | refl : ByteWrites t s s
  | write {s' : State} (h : ByteWrites t s s') (off : Nat) (v : Byte) : ByteWrites t s (s'.writeByte t off v)

theorem ByteWrites.trans {t : Handle} {s s' s'' : State} (h : ByteWrites t s s') (h' : ByteWrites t s' s'') :
    ByteWrites t s s'' := by
  induction h' with
  | refl => exact h
  | write _ off v ih => exact ih.write off v

theorem State.memWrite_byteWrites (s : State) (t : Handle) (off : Nat) (bs : List Byte) :
    ByteWrites t s (s.memWrite t off bs) := by
  induction bs generalizing s off with
  | nil => exact .refl
  | cons b bs ih => exact (ByteWrites.refl.write off b).trans (ih (s.writeByte t off b) (off + 1))

theorem State.setPx_byteWrites (s : State) (t : Handle) (x y : Int) (p : Pixel) : ByteWrites t s (s.setPx t x y p) := by
  unfold State.setPx
  cases s.slot t with
  | none => exact .refl
  | some d =>
    by_cases hb : d.inBounds x y = true
    · simp only [hb, if_true, State.encodePx]
      split <;> exact State.memWrite_byteWrites ..
    · simp only [hb, Bool.false_eq_true, if_false]
      exact .refl

/-- A loop whose every turn is made of byte writes is made of byte writes. -/
theorem byteWrites_foldl {α : Type} {t : Handle} (f : State → α → State) (hf : ∀ s a, ByteWrites t s (f s a))
    (s : State) (l : List α) : ByteWrites t s (l.foldl f s) := by
  induction l generalizing s with
  | nil => exact .refl
  | cons a l ih => exact (hf s a).trans (ih (f s a))

theorem State.put_byteWrites (s : State) (t : Handle) (x y : Int) (p : Pixel) (m : DrawMode) :
    ByteWrites t s (s.put t x y p m) := by
  cases m <;> exact State.setPx_byteWrites ..

theorem State.putAll_byteWrites (s : State) (t : Handle) (pts : List Point) (p : Pixel) (m : DrawMode) :
    ByteWrites t s (s.putAll t pts p m) := by
  unfold State.putAll
  exact byteWrites_foldl _ (fun s q => State.put_byteWrites s t q.1 q.2 p m) s pts

theorem State.blendCoverage_byteWrites (s : State) (t : Handle) (pts : List Point) (color : Pixel) (k : Point → Nat) :
    ByteWrites t s (s.blendCoverage t pts color k) := by
  unfold State.blendCoverage
  refine byteWrites_foldl _ (fun s q => ?_) s pts
  simp only
  split
  · exact State.setPx_byteWrites ..
  · exact .refl

theorem State.ditherPx_byteWrites (s : State) (t : Handle) (m : Masks) (q : Point) : ByteWrites t s (s.ditherPx t m q) := by
  unfold State.ditherPx
  exact (s.setPx_byteWrites ..).trans (byteWrites_foldl _ (fun s _ => by unfold State.diffuse; exact State.setPx_byteWrites ..) _ _)

theorem State.ditherAll_byteWrites (s : State) (t : Handle) (pts : List Point) (m : Masks) :
    ByteWrites t s (s.ditherAll t pts m) := by
  unfold State.ditherAll
  exact byteWrites_foldl _ (fun s q => State.ditherPx_byteWrites s t m q) s pts

theorem State.composePx_byteWrites (s : State) (t : Handle) (policy : AlphaPolicy) (p : Pixel) (x y : Int) :
    ByteWrites t s (s.composePx t policy p x y) := by
  unfold State.composePx
  cases policy with
  | skipTransparent =>
    simp only
    split
    · exact State.setPx_byteWrites ..
    · exact .refl
  | _ => exact State.setPx_byteWrites ..

theorem State.composeAll_byteWrites (s : State) (t src : Handle) (policy : AlphaPolicy)
    (tx ty sx sy w h scaleX scaleY : Int) :
    ByteWrites t s (s.composeAll t src policy tx ty sx sy w h scaleX scaleY) := by
  unfold State.composeAll
  refine byteWrites_foldl _ (fun s q => ?_) s _
  unfold State.composeBlock
  exact byteWrites_foldl _ (fun s _ => State.composePx_byteWrites ..) s _

/-- What byte writes leave alone: FAULT, the ports, the draw counter, the table's length, every other slot, and of the
target's descriptor everything but the owned array. -/
theorem ByteWrites.frame {t : Handle} {s s' : State} (h : ByteWrites t s s') :
    s'.fault = s.fault ∧ s'.port = s.port ∧ s'.resp = s.resp ∧ s'.allocDraws = s.allocDraws ∧
    s'.slots.length = s.slots.length ∧ (∀ g, g ≠ t → s'.slot g = s.slot g) ∧
    (s.slot t = none → s'.slot t = none) ∧ (∀ d, s.slot t = some d → ∃ d', s'.slot t = some d' ∧ d.sameBut d') := by
  induction h with
  | refl => exact ⟨rfl, rfl, rfl, rfl, rfl, fun _ _ => rfl, id, fun d hd => ⟨d, hd, d.sameBut_refl⟩⟩
  | @write s' _ off v ih =>
    obtain ⟨h1, h2, h3, h4, h5, h6, h7, h8⟩ := ih
    obtain ⟨f1, f2, f3, f4, f5⟩ := s'.writeByte_frame t off v
    obtain ⟨g6, g7, g8⟩ := s'.writeByte_slot t off v
    refine ⟨f1.trans h1, f2.trans h2, f3.trans h3, f4.trans h4, f5.trans h5, fun g hg => (g6 g hg).trans (h6 g hg),
      fun hn => g7 (h7 hn), fun d hd => ?_⟩
    obtain ⟨d', hd', hs⟩ := h8 d hd
    obtain ⟨d'', hd'', hs'⟩ := g8 d' hd'
    exact ⟨d'', hd'', Drawbuffer.sameBut_trans hs hs'⟩

/-- Byte writes to an owned buffer leave host memory alone. -/
theorem ByteWrites.hostMem_owned {t : Handle} {s s' : State} (h : ByteWrites t s s') {d : Drawbuffer}
    (hs : s.slot t = some d) {mem : Memory} (hb : d.backing = .owned mem) : s'.hostMem = s.hostMem := by
  induction h with
  | refl => rfl
  | @write s' h off v ih =>
    obtain ⟨d', hd', hk⟩ := h.frame.2.2.2.2.2.2.2 d hs
    rcases s'.writeByte_cases t off v with e | ⟨e', hs', -, ⟨m, -, e⟩ | ⟨b, c, hb', e⟩⟩
    · rw [e]; exact ih
    · rw [e]; exact ih
    · rw [hd'] at hs'
      obtain rfl := Option.some.inj hs'
      simp [Drawbuffer.sameBut, hb, hb'] at hk

end Sys2Proof.Machine
end

