-- ==== Sys2Proof/Laws/PerInstr.lean ====
section
/-! SUPPORT. The per-instruction family CommandLength: a command's words are as many as the decoder tells from its header
and, for LOAD, from its first argument (spec 30_encoding R102). -/

namespace Sys2Proof

/-- The fields of a header word put together are the fields taken apart. -/
theorem header_fields (s t : BitVec 8) (m : BitVec 4) (o : BitVec 8) :
    (s ++ t ++ (0 : BitVec 4) ++ m ++ o).extractLsb' 0 8 = o ∧
    (s ++ t ++ (0 : BitVec 4) ++ m ++ o).extractLsb' 8 4 = m ∧
    (s ++ t ++ (0 : BitVec 4) ++ m ++ o).extractLsb' 12 4 = 0 ∧
    (s ++ t ++ (0 : BitVec 4) ++ m ++ o).extractLsb' 16 8 = t ∧
    (s ++ t ++ (0 : BitVec 4) ++ m ++ o).extractLsb' 24 8 = s := by
  refine ⟨?_, ?_, ?_, ?_, ?_⟩ <;> ext k hk <;> simp only [BitVec.getElem_extractLsb', BitVec.getLsbD_append] <;>
    interval_cases k <;> simp

/-- The map finds each row by its code. -/
theorem Op.ofCode?_code (op : Op) : Op.ofCode? op.opc op.mode = some op := by cases op <;> decide

/-- A row found by a code has this code. -/
theorem Op.code_of_ofCode? {opc : BitVec 8} {mode : BitVec 4} {op : Op} (h : Op.ofCode? opc mode = some op) :
    op.opc = opc ∧ op.mode = mode := by
  have := List.find?_some h
  simpa using this

/-- The decoder takes an encoded header apart again, where the unused handle fields are 0. -/
theorem decodeHeader_encodeHeader (op : Op) (t s : Handle) (ht : op.usesT = false → t = 0)
    (hs : op.usesS = false → s = 0) : decodeHeader (encodeHeader ⟨op, t, s⟩) = some ⟨op, t, s⟩ := by
  obtain ⟨e1, e2, e3, e4, e5⟩ := header_fields s t op.mode op.opc
  unfold decodeHeader encodeHeader
  simp only [e1, e2, e3, e4, e5, Op.ofCode?_code]
  cases hT : op.usesT <;> cases hS : op.usesS <;> simp_all

/-- A command's header decodes to its row and its handles. -/
theorem decodeHeader_header (i : Instr) : decodeHeader (encodeHeader i.header) = some i.header := by
  apply decodeHeader_encodeHeader <;> cases i <;> simp [Instr.op, Instr.target, Instr.source, Op.usesT, Op.usesS]

namespace Laws.CommandLength

/-- R102: the length told from the header, and from LOAD's first argument, is the number of the command's words. -/
def Statement (i : Instr) : Prop := i.wellFormed = true → commandLength (encode i) = (encode i).length

/-- A command other than LOAD, whose row gives its number of arguments. -/
theorem of_args (i : Instr) (hl : i.op ≠ .load) (ha : i.args.length = i.op.argCount) : Statement i := by
  intro _
  have hd := decodeHeader_header i
  have ho : i.header.op = i.op := rfl
  simp only [commandLength, encode, hd, ho, hl, if_false, List.length_cons, ha]
  omega

theorem pxDecode (fmt packed : Word) :
    Statement (.pxDecode fmt packed) := of_args _ nofun rfl

theorem pxEncode (fmt pixel : Word) :
    Statement (.pxEncode fmt pixel) := of_args _ nofun rfl

theorem fmtBpp (fmt : Word) :
    Statement (.fmtBpp fmt) := of_args _ nofun rfl

theorem fmtSize (fmt w h : Word) :
    Statement (.fmtSize fmt w h) := of_args _ nofun rfl

theorem fmtName (fmt : Word) :
    Statement (.fmtName fmt) := of_args _ nofun rfl

theorem fmtId (name0 name1 name2 : Word) :
    Statement (.fmtId name0 name1 name2) := of_args _ nofun rfl

theorem new (t : Handle) (w h fmt : Word) :
    Statement (.new t w h fmt) := of_args _ nofun rfl

theorem wrap (t : Handle) (w h fmt baseLo baseHi ctx : Word) :
    Statement (.wrap t w h fmt baseLo baseHi ctx) := of_args _ nofun rfl

theorem close (t : Handle) :
    Statement (.close t) := of_args _ nofun rfl

theorem width (t : Handle) :
    Statement (.width t) := of_args _ nofun rfl

theorem height (t : Handle) :
    Statement (.height t) := of_args _ nofun rfl

theorem pixelFormat (t : Handle) :
    Statement (.pixelFormat t) := of_args _ nofun rfl

theorem byteLength (t : Handle) :
    Statement (.byteLength t) := of_args _ nofun rfl

theorem getPixel (t : Handle) (x y : Word) :
    Statement (.getPixel t x y) := of_args _ nofun rfl

theorem setPixel (t : Handle) (x y pixel : Word) :
    Statement (.setPixel t x y pixel) := of_args _ nofun rfl

theorem dump (t : Handle) :
    Statement (.dump t) := of_args _ nofun rfl

theorem load (t : Handle) (n : Word) (data : List Word) : Statement (.load t n data) := by
  intro h
  have hd := decodeHeader_header (.load t n data)
  simp only [Instr.wellFormed, beq_iff_eq] at h
  have ho : (Instr.load t n data).header.op = .load := rfl
  simp only [commandLength, encode, hd, ho, if_true, Instr.args, List.headD_cons, List.length_cons, h]
  omega

theorem clear (t : Handle) (r g b a : Word) :
    Statement (.clear t r g b a) := of_args _ nofun rfl

theorem blend (base paint : Word) :
    Statement (.blend base paint) := of_args _ nofun rfl

theorem line (t : Handle) (x0 y0 x1 y1 color : Word) :
    Statement (.line t x0 y0 x1 y1 color) := of_args _ nofun rfl

theorem lineB (t : Handle) (x0 y0 x1 y1 color : Word) :
    Statement (.lineB t x0 y0 x1 y1 color) := of_args _ nofun rfl

theorem lineAa (t : Handle) (x0 y0 x1 y1 radius color : Word) :
    Statement (.lineAa t x0 y0 x1 y1 radius color) := of_args _ nofun rfl

theorem rectF (t : Handle) (x y w h color : Word) :
    Statement (.rectF t x y w h color) := of_args _ nofun rfl

theorem rectFB (t : Handle) (x y w h color : Word) :
    Statement (.rectFB t x y w h color) := of_args _ nofun rfl

theorem rectO (t : Handle) (x y w h color : Word) :
    Statement (.rectO t x y w h color) := of_args _ nofun rfl

theorem rectOB (t : Handle) (x y w h color : Word) :
    Statement (.rectOB t x y w h color) := of_args _ nofun rfl

theorem triangle (t : Handle) (x0 y0 x1 y1 x2 y2 color : Word) :
    Statement (.triangle t x0 y0 x1 y1 x2 y2 color) := of_args _ nofun rfl

theorem triangleB (t : Handle) (x0 y0 x1 y1 x2 y2 color : Word) :
    Statement (.triangleB t x0 y0 x1 y1 x2 y2 color) := of_args _ nofun rfl

theorem circleF (t : Handle) (cx cy r color : Word) :
    Statement (.circleF t cx cy r color) := of_args _ nofun rfl

theorem circleFB (t : Handle) (cx cy r color : Word) :
    Statement (.circleFB t cx cy r color) := of_args _ nofun rfl

theorem circleO (t : Handle) (cx cy r color : Word) :
    Statement (.circleO t cx cy r color) := of_args _ nofun rfl

theorem circleOB (t : Handle) (cx cy r color : Word) :
    Statement (.circleOB t cx cy r color) := of_args _ nofun rfl

theorem circleAaF (t : Handle) (cx cy radius color : Word) :
    Statement (.circleAaF t cx cy radius color) := of_args _ nofun rfl

theorem circleAaO (t : Handle) (cx cy radius color : Word) :
    Statement (.circleAaO t cx cy radius color) := of_args _ nofun rfl

theorem dither (t : Handle) (mask : Word) :
    Statement (.dither t mask) := of_args _ nofun rfl

theorem ditherD (t : Handle) (fmt : Word) :
    Statement (.ditherD t fmt) := of_args _ nofun rfl

theorem composeOp (t : Handle) (src : Handle) (tx ty sx sy w h scaleX scaleY : Word) :
    Statement (.composeOp t src tx ty sx sy w h scaleX scaleY) := of_args _ nofun rfl

theorem composeSkip (t : Handle) (src : Handle) (tx ty sx sy w h scaleX scaleY : Word) :
    Statement (.composeSkip t src tx ty sx sy w h scaleX scaleY) := of_args _ nofun rfl

theorem composeBlend (t : Handle) (src : Handle) (tx ty sx sy w h scaleX scaleY : Word) :
    Statement (.composeBlend t src tx ty sx sy w h scaleX scaleY) := of_args _ nofun rfl

end Laws.CommandLength

end Sys2Proof
end

