-- ==== Sys2Proof/Tests/Slice0.lean ====
section
/-! SUPPORT. Tests: ill-formed terms refused, each command's word decoded, the vectors of spec/95_test_vectors.md one
command at a time, and a witness for the hypotheses of every statement. Each expected value is the spec's. -/

namespace Sys2Proof.Tests

open Sys2Proof.Machine

-- The evaluations below run one after another, so that they need no thread each.
set_option Elab.async false

/-! ### Small states -/

/-- A state with the given slots, and nothing else in it. -/
def withSlots (slots : List (Option Drawbuffer)) : State :=
  { slots := slots, fault := 0, hostMem := [], port := [], resp := [], allocDraws := 0 }

/-- An Owned buffer with the given listed bytes. -/
def owned (w h : Nat) (f : Format) (mem : Memory := []) : Option Drawbuffer := some ⟨w, h, f, .owned mem⟩

/-- A Borrowed buffer. -/
def borrowed (w h : Nat) (f : Format) (base : HostAddr) (ctx : Word) : Option Drawbuffer :=
  some ⟨w, h, f, .borrowed base ctx⟩

/-- The state with the given words at the command port. -/
def feed (slots : List (Option Drawbuffer)) (port : List Word) : State := { withSlots slots with port := port }

/-- The next state; a state with no slots where there is none. -/
def after : Result → State
  | .next s => s
  | _ => withSlots []

/-- The words sent. -/
def said (r : Result) : List Word := (after r).resp

/-- The pixels of buffer h that do not read 0, in raster order. -/
def lit (r : Result) (h : Handle) : List (Int × Int × Word) :=
  match (after r).slot h with
  | none => []
  | some d => (d.pixels.map fun q => (q.1, q.2, (after r).getPx h q.1 q.2)).filter fun p => p.2.2 ≠ 0

/-- The listed bytes of the Owned buffer h. -/
def bytesOf (r : Result) (h : Handle) : Memory :=
  match (after r).slot h with
  | some ⟨_, _, _, .owned mem⟩ => mem
  | _ => []

/-! ### Ill-formed terms -/

/-- R93: three bytes need one data word; none and two are refused. -/
theorem test_load_too_few_words : (Instr.load 0 3 []).wellFormed = false := by decide
theorem test_load_too_many_words : (Instr.load 0 3 [1, 2]).wellFormed = false := by decide
theorem test_load_exact : (Instr.load 0 3 [1]).wellFormed = true ∧ (Instr.load 0 0 []).wellFormed = true ∧
    (Instr.load 0 5 [1, 2]).wellFormed = true := by decide

/-! ### Decoding: headers written bit by bit as S, T, RSV and MODE, OPC (R91, R98, R99) -/

theorem test_decode_codec :
    decode [0b00000000_00000000_00000000_00000001, 5, 6] = .ok (.pxDecode 5 6, []) ∧
    decode [0b00000000_00000000_00000000_00000010, 5, 6] = .ok (.pxEncode 5 6, []) ∧
    decode [0b00000000_00000000_00000000_00000011, 5] = .ok (.fmtBpp 5, []) ∧
    decode [0b00000000_00000000_00000000_00000100, 5, 6, 7] = .ok (.fmtSize 5 6 7, []) ∧
    decode [0b00000000_00000000_00000000_00000101, 5] = .ok (.fmtName 5, []) ∧
    decode [0b00000000_00000000_00000000_00000110, 5, 6, 7] = .ok (.fmtId 5 6 7, []) := by decide

theorem test_decode_lifecycle :
    decode [0b00000000_00000011_00000000_00010000, 5, 6, 7] = .ok (.new 3 5 6 7, []) ∧
    decode [0b00000000_00000011_00000000_00010001, 5, 6, 7, 8, 9, 10] = .ok (.wrap 3 5 6 7 8 9 10, []) ∧
    decode [0b00000000_00000011_00000000_00010010] = .ok (.close 3, []) ∧
    decode [0b00000000_00000011_00000000_00010011] = .ok (.width 3, []) ∧
    decode [0b00000000_00000011_00000000_00010100] = .ok (.height 3, []) ∧
    decode [0b00000000_00000011_00000000_00010101] = .ok (.pixelFormat 3, []) ∧
    decode [0b00000000_00000011_00000000_00010110] = .ok (.byteLength 3, []) := by decide

theorem test_decode_pixels :
    decode [0b00000000_00000011_00000000_00010111, 5, 6] = .ok (.getPixel 3 5 6, []) ∧
    decode [0b00000000_00000011_00000000_00011000, 5, 6, 7] = .ok (.setPixel 3 5 6 7, []) ∧
    decode [0b00000000_00000011_00000000_00011001] = .ok (.dump 3, []) ∧
    decode [0b00000000_00000011_00000000_00011010, 5, 6, 7, 8] = .ok (.load 3 5 [6, 7], [8]) ∧
    decode [0b00000000_00000011_00000000_00011011, 5, 6, 7, 8] = .ok (.clear 3 5 6 7 8, []) ∧
    decode [0b00000000_00000000_00000000_00100000, 5, 6] = .ok (.blend 5 6, []) := by decide

theorem test_decode_lines :
    decode [0b00000000_00000011_00000000_00110000, 5, 6, 7, 8, 9] = .ok (.line 3 5 6 7 8 9, []) ∧
    decode [0b00000000_00000011_00000001_00110000, 5, 6, 7, 8, 9] = .ok (.lineB 3 5 6 7 8 9, []) ∧
    decode [0b00000000_00000011_00000000_00110001, 5, 6, 7, 8, 9, 10] = .ok (.lineAa 3 5 6 7 8 9 10, []) := by decide

theorem test_decode_rectangles :
    decode [0b00000000_00000011_00000000_00110010, 5, 6, 7, 8, 9] = .ok (.rectF 3 5 6 7 8 9, []) ∧
    decode [0b00000000_00000011_00000001_00110010, 5, 6, 7, 8, 9] = .ok (.rectFB 3 5 6 7 8 9, []) ∧
    decode [0b00000000_00000011_00000010_00110010, 5, 6, 7, 8, 9] = .ok (.rectO 3 5 6 7 8 9, []) ∧
    decode [0b00000000_00000011_00000011_00110010, 5, 6, 7, 8, 9] = .ok (.rectOB 3 5 6 7 8 9, []) := by decide

theorem test_decode_triangles :
    decode [0b00000000_00000011_00000000_00110011, 5, 6, 7, 8, 9, 10, 11] = .ok (.triangle 3 5 6 7 8 9 10 11, []) ∧
    decode [0b00000000_00000011_00000001_00110011, 5, 6, 7, 8, 9, 10, 11] = .ok (.triangleB 3 5 6 7 8 9 10 11, []) :=
  by decide

theorem test_decode_circles :
    decode [0b00000000_00000011_00000000_00110100, 5, 6, 7, 8] = .ok (.circleF 3 5 6 7 8, []) ∧
    decode [0b00000000_00000011_00000001_00110100, 5, 6, 7, 8] = .ok (.circleFB 3 5 6 7 8, []) ∧
    decode [0b00000000_00000011_00000010_00110100, 5, 6, 7, 8] = .ok (.circleO 3 5 6 7 8, []) ∧
    decode [0b00000000_00000011_00000011_00110100, 5, 6, 7, 8] = .ok (.circleOB 3 5 6 7 8, []) ∧
    decode [0b00000000_00000011_00000000_00110101, 5, 6, 7, 8] = .ok (.circleAaF 3 5 6 7 8, []) ∧
    decode [0b00000000_00000011_00000010_00110101, 5, 6, 7, 8] = .ok (.circleAaO 3 5 6 7 8, []) := by decide

theorem test_decode_dither_compose :
    decode [0b00000000_00000011_00000000_01000000, 5] = .ok (.dither 3 5, []) ∧
    decode [0b00000000_00000011_00000001_01000000, 5] = .ok (.ditherD 3 5, []) ∧
    decode [0b00000010_00000011_00000000_01010000, 5, 6, 7, 8, 9, 10, 11, 12] =
      .ok (.composeOp 3 2 5 6 7 8 9 10 11 12, []) ∧
    decode [0b00000010_00000011_00000001_01010000, 5, 6, 7, 8, 9, 10, 11, 12] =
      .ok (.composeSkip 3 2 5 6 7 8 9 10 11 12, []) ∧
    decode [0b00000010_00000011_00000010_01010000, 5, 6, 7, 8, 9, 10, 11, 12] =
      .ok (.composeBlend 3 2 5 6 7 8 9 10 11 12, []) := by decide

/-- The opcode table's numbering: bit 0 is the least significant of the first word; words not given are 0. -/
theorem test_table_word :
    decodeTableWord 32 0x01020250 = some (.composeBlend 2 1 0 0 0 0 0 0 0 0) ∧
    decodeTableWord 64 0x0000000A00000005 = some (.fmtName 10) ∧ decodeTableWord 32 0x00000007 = none := by decide

/-! ### The port and the faults: 95 V14, P4 -/

theorem test_fault_undefined_opcode :
    step (feed [none] [7, 9]) = .next { feed [none] [9] with fault := 1, resp := [0x00000180] } := by rfl
theorem test_fault_each_check :
    said (step (feed [none] [0x00001003])) = [0x180] ∧ said (step (feed [none] [0x00000230])) = [0x180] ∧
    said (step (feed [none] [0x00000135])) = [0x180] ∧ said (step (feed [none] [0x00010003])) = [0x180] ∧
    said (step (feed [none] [0x01000030])) = [0x180] ∧ said (step (feed [none] [0x00040010])) = [0x280] ∧
    said (step (feed [none, none] [0x00010013])) = [0x280] ∧ said (step (feed [none] [0x00090012])) = [0x280] ∧
    said (step (feed [owned 1 1 .rgba8888] [0x00000010])) = [0x280] ∧
    said (step (feed [owned 1 1 .rgba8888, none] [0x01000050])) = [0x280] := by decide +kernel
theorem test_faulted_answers :
    step { feed [owned 1 1 .gray8] [0x00000013, 0] with fault := 2 } =
      .next { feed [owned 1 1 .gray8] [0] with fault := 2, resp := [0x00000280] } := by rfl
theorem test_step_runs_a_command :
    step (feed [none] [0x00000003, 4, 0x13]) = .next { feed [none] [0x13] with resp := [0, 16] } := by rfl
theorem test_step_waits : step (feed [none] [0x00000003]) = .fault .awaitingArguments := by rfl
theorem test_reset_drops_slots :
    (({ feed [owned 1 1 .gray8, borrowed 1 1 .gray8 0x1000 7] [0x13] with
      fault := 2, hostMem := [(0x1000, 5)], resp := [0x280] } : State)).assertReset =
      { withSlots [none, none] with hostMem := [(0x1000, 5)] } := by decide +kernel
theorem test_table_word_runs_from_reset :
    step (State.reset.withFetchWord 32 0x00000003) = .next { State.reset with resp := [0, 1] } := by rfl

/-! ### Codec and registry: 95 V1, V2 -/

theorem test_enc :
    Format.all.map (fun f => enc f 0xFF804007) =
      [1, 0xFF, 0xF1, 0xFC08, 0x441F, 0x4080FF, 0xFF8040, 0x074080FF, 0x4080FF07, 0xFF804007, 0x07FF8040] ∧
    Format.all.map (fun f => enc f 0x12345678) =
      [0, 0x12, 0x05, 0x11AA, 0x51A2, 0x563412, 0x123456, 0x78563412, 0x56341278, 0x12345678, 0x78123456] := by
  decide +kernel
theorem test_dec :
    Format.all.map (fun f => quant f 0x807F3FC0) =
      [0xFFFFFFFF, 0x80808080, 0x806000FF, 0x807C38FF, 0x807C38FF, 0x807F3FFF, 0x807F3FFF, 0x807F3FC0, 0x807F3FC0,
        0x807F3FC0, 0x807F3FC0] := by decide +kernel
theorem test_pxDecode :
    said (exec (.pxDecode 3 0x1FC08) (withSlots [])) = [0, 0xF88040FF] ∧
    said (exec (.pxDecode 0 0xFFFFFFFE) (withSlots [])) = [0, 0] := by decide +kernel
theorem test_pxEncode :
    said (exec (.pxEncode 4 0xFF804007) (withSlots [])) = [0, 0x441F] ∧
    said (exec (.pxEncode 11 0) (withSlots [])) = [2] := by decide +kernel
theorem test_fmtBpp : said (exec (.fmtBpp 5) (withSlots [])) = [0, 24] ∧
    said (exec (.fmtBpp 11) (withSlots [])) = [2] := by decide +kernel
theorem test_fmtSize : said (exec (.fmtSize 7 0x7FFFFFFF 0x7FFFFFFF) (withSlots [])) = [0, 4, 0xFFFFFFFC] ∧
    said (exec (.fmtSize 0 3 3) (withSlots [])) = [0, 2, 0] := by decide +kernel
theorem test_fmtSize_order : said (exec (.fmtSize 11 0 0) (withSlots [])) = [1] := by decide +kernel
theorem test_fmtName : said (exec (.fmtName 10) (withSlots [])) = [0, 0x61726762, 0x38383838, 0] := by decide +kernel
theorem test_fmtId : said (exec (.fmtId 0x61726762 0x38383838 0) (withSlots [])) = [0, 10] ∧
    said (exec (.fmtId 0x33424752 0x00003233 0) (withSlots [])) = [2] := by decide +kernel

/-! ### Lifecycle and queries: 95 V3, X5 -/

theorem test_new_granted (fits : 64 ≤ Config.memLimit) (granted : Config.allocOk 0 = true) :
    exec (.new 0 4 4 7) (withSlots [none]) =
      .next { withSlots [owned 4 4 .rgba8888] with resp := [0], allocDraws := 1 } := by
  have n : ¬ Config.memLimit < 64 := by omega
  have size : Machine.byteLength .rgba8888 4 4 = 64 := by decide
  have e : Format.ofId? (u32 7#32) = some .rgba8888 := by decide
  simp [exec, execNew, withEmpty, State.slotEmpty, withSlots, withDimensions, s32, withFormat, e, granted, size, n,
    State.setSlot, State.respondOk, State.respond, owned, statusOk, statusWord]
theorem test_new_errors :
    said (exec (.new 0 0xFFFFFFFF 4 11) (withSlots [none])) = [1] ∧
    said (exec (.new 0 4 4 11) (withSlots [none])) = [2] := by decide +kernel
theorem test_wrap :
    exec (.wrap 0 2 1 3 0x1000 2 7) (withSlots [none]) =
      .next { withSlots [borrowed 2 1 .rgb565 0x0000000200001000 7] with resp := [0] } := by rfl
theorem test_wrap_too_large : said (exec (.wrap 0 65536 65536 7 0x1000 0 0) (withSlots [none])) = [1] := by
  decide +kernel
theorem test_close_borrowed :
    exec (.close 1) (withSlots [none, borrowed 2 1 .rgb565 0x1000 7]) =
      .next { withSlots [none, none] with resp := [0x00010040, 7, 0] } := by rfl
theorem test_close_owned_and_empty :
    exec (.close 0) (withSlots [owned 1 1 .gray8 [(0, 9)]]) = .next { withSlots [none] with resp := [0] } ∧
    exec (.close 0) (withSlots [none]) = .next { withSlots [none] with resp := [0] } := ⟨by rfl, by rfl⟩
theorem test_width : said (exec (.width 0) (withSlots [owned 3 5 .abgr8888])) = [0, 3] := by decide +kernel
theorem test_height : said (exec (.height 0) (withSlots [owned 3 5 .abgr8888])) = [0, 5] := by decide +kernel
theorem test_pixelFormat : said (exec (.pixelFormat 0) (withSlots [owned 3 5 .abgr8888])) = [0, 9] := by decide +kernel
theorem test_byteLength : said (exec (.byteLength 0) (withSlots [owned 3 5 .abgr8888])) = [0, 60] := by decide +kernel

/-! ### Pixels, bulk transfer, CLEAR, BLEND: 95 V4, V5, X4 -/

theorem test_getPixel_out_of_range :
    said (exec (.getPixel 0 0xFFFFFFFF 0) (withSlots [owned 3 3 .rgb565])) = [0, 0] ∧
    said (exec (.getPixel 0 3 0) (withSlots [owned 3 3 .rgb565])) = [0, 0] := by decide +kernel
theorem test_getPixel_fresh_565 : said (exec (.getPixel 0 0 0) (withSlots [owned 1 1 .rgb565])) = [0, 0xFF] := by
  decide +kernel
theorem test_setPixel_mono1 :
    bytesOf (exec (.setPixel 0 2 2 0xFFFFFFFF) (withSlots [owned 3 3 .mono1])) 0 = [(1, 0x80)] := by decide +kernel
theorem test_setPixel_rgba :
    bytesOf (exec (.setPixel 0 1 1 0xFF0000FF) (withSlots [owned 4 4 .rgba8888])) 0 = [(20, 0xFF), (23, 0xFF)] := by
  decide +kernel
theorem test_dump :
    said (exec (.dump 0) (withSlots [owned 3 3 .mono1 [(0, 0xFF), (1, 0x80)]])) = [0, 2, 0x000080FF] := by
  decide +kernel
theorem test_load :
    bytesOf (exec (.load 0 4 [0x01020304]) (withSlots [owned 1 1 .rgba8888])) 0 =
      [(0, 4), (1, 3), (2, 2), (3, 1)] := by decide +kernel
theorem test_load_length :
    exec (.load 0 3 [0x00030201]) (withSlots [owned 1 1 .rgba8888]) =
      .next { withSlots [owned 1 1 .rgba8888] with resp := [4] } := by rfl
theorem test_clear_keeps_padding :
    bytesOf (exec (.clear 0 0 0 0 255) (withSlots [owned 3 3 .mono1 [(0, 0xFF), (1, 0xFF)]])) 0 = [(1, 0x7F)] := by
  decide +kernel
theorem test_clear_range :
    said (exec (.clear 0 256 0 0 0) (withSlots [owned 1 1 .gray8])) = [5] ∧
    said (exec (.clear 0 0xFFFFFFFF 0 0 0) (withSlots [owned 1 1 .gray8])) = [5] ∧
    bytesOf (exec (.clear 0 255 128 64 7) (withSlots [owned 2 1 .rgb565])) 0 =
      [(0, 0x08), (1, 0xFC), (2, 0x08), (3, 0xFC)] := by decide +kernel
theorem test_blend :
    said (exec (.blend 0x10203040 0x55667780) (withSlots [])) = [0, 0x32435340] ∧
    said (exec (.blend 0xFFFFFF00 0x00000080) (withSlots [])) = [0, 0x7F7F7F00] ∧
    said (exec (.blend 0x10203040 0x55667700) (withSlots [])) = [0, 0x10203040] ∧
    said (exec (.blend 0x10203040 0x556677FF) (withSlots [])) = [0, 0x55667740] := by decide +kernel

/-! ### Rasterizers: 95 V6 to V11 -/

theorem test_bresenham :
    bresenham 0 0 4 2 = [(0, 0), (1, 1), (2, 1), (3, 2), (4, 2)] ∧
    bresenham 4 2 0 0 = [(4, 2), (3, 1), (2, 1), (1, 0), (0, 0)] := by decide +kernel
theorem test_line :
    lit (exec (.line 0 0xFFFFFFFE 0xFFFFFFFE 5 5 0xFFFFFFFF) (withSlots [owned 4 4 .rgba8888])) 0 =
      [(0, 0, 0xFFFFFFFF), (1, 1, 0xFFFFFFFF), (2, 2, 0xFFFFFFFF), (3, 3, 0xFFFFFFFF)] := by decide +kernel
theorem test_lineB :
    lit (exec (.lineB 0 0 0 0 0 0x0000FF80)
      (withSlots [owned 1 1 .rgba8888 [(0, 255), (3, 200)]])) 0 = [(0, 0, 0x7F0080C8)] := by decide +kernel
theorem test_lineAa :
    lit (exec (.lineAa 0 1 1 3 1 0x100 0xFFFFFFFF) (withSlots [owned 5 3 .rgba8888])) 0 =
      [(0, 0, 0x15151500), (1, 0, 0x7F7F7F00), (2, 0, 0x7F7F7F00), (3, 0, 0x7F7F7F00), (4, 0, 0x15151500),
       (0, 1, 0x7F7F7F00), (1, 1, 0xFFFFFF00), (2, 1, 0xFFFFFF00), (3, 1, 0xFFFFFF00), (4, 1, 0x7F7F7F00),
       (0, 2, 0x15151500), (1, 2, 0x7F7F7F00), (2, 2, 0x7F7F7F00), (3, 2, 0x7F7F7F00), (4, 2, 0x15151500)] := by
  decide +kernel
theorem test_rectF :
    lit (exec (.rectF 0 0xFFFFFFFF 0xFFFFFFFF 3 3 9) (withSlots [owned 4 4 .rgba8888])) 0 =
      [(0, 0, 9), (1, 0, 9), (0, 1, 9), (1, 1, 9)] := by decide +kernel
theorem test_rectFB :
    lit (exec (.rectFB 0 0 0 2 1 0xFF000080) (withSlots [owned 4 4 .rgba8888])) 0 =
      [(0, 0, 0x80000000), (1, 0, 0x80000000)] := by decide +kernel
theorem test_rectO :
    lit (exec (.rectO 0 0xFFFFFFFF 0xFFFFFFFF 4 4 9) (withSlots [owned 4 4 .rgba8888])) 0 =
      [(0, 0, 9), (1, 0, 9), (2, 0, 9), (0, 1, 9), (2, 1, 9), (0, 2, 9), (1, 2, 9), (2, 2, 9)] := by decide +kernel
theorem test_rectOB :
    lit (exec (.rectOB 0 0 0 4 1 0xFF000080) (withSlots [owned 4 4 .rgba8888])) 0 =
      [(0, 0, 0x80000000), (1, 0, 0x80000000), (2, 0, 0x80000000), (3, 0, 0x80000000)] := by decide +kernel
theorem test_triSpans :
    triSpans 10 (0, 0) (4, 2) (1, 4) =
      [⟨0, 0, 0⟩, ⟨1, 0, 2⟩, ⟨2, 0, 4⟩, ⟨2, 0, 4⟩, ⟨3, 0, 2⟩, ⟨4, 1, 1⟩] ∧
    triSpans 10 (2, 0) (0, 3) (4, 5) =
      [⟨0, 2, 2⟩, ⟨1, 1, 2⟩, ⟨2, 0, 2⟩, ⟨3, 0, 3⟩, ⟨3, 0, 3⟩, ⟨4, 2, 3⟩, ⟨5, 4, 4⟩] := by decide +kernel
theorem test_triangle :
    lit (exec (.triangle 0 0 0 4 0 0 4 9) (withSlots [owned 3 3 .rgba8888])) 0 =
      [(0, 0, 9), (1, 0, 9), (2, 0, 9), (0, 1, 9), (1, 1, 9), (2, 1, 9), (0, 2, 9), (1, 2, 9), (2, 2, 9)] := by
  decide +kernel
/-- The split row y = 2 is blended twice. -/
theorem test_triangleB :
    (lit (exec (.triangleB 0 0 0 4 2 1 4 0xFFFFFF80) (withSlots [owned 5 5 .rgba8888])) 0).map (fun p => p.2.2) =
      [0x80808000, 0x80808000, 0x80808000, 0x80808000, 0xBFBFBF00, 0xBFBFBF00, 0xBFBFBF00, 0xBFBFBF00, 0xBFBFBF00,
        0x80808000, 0x80808000, 0x80808000, 0x80808000] := by decide +kernel
theorem test_circle_sizes :
    [(-1 : Int), 0, 1, 2, 3, 4, 5].map (fun r => (circlePoints 0 0 r .outline).length) = [0, 1, 4, 12, 16, 24, 28] ∧
    [(-1 : Int), 0, 1, 2, 3].map (fun r => (circlePoints 0 0 r .fill).length) = [0, 1, 5, 13, 29] := by decide +kernel
theorem test_circleF :
    lit (exec (.circleF 0 1 1 1 9) (withSlots [owned 3 3 .rgba8888])) 0 =
      [(1, 0, 9), (0, 1, 9), (1, 1, 9), (2, 1, 9), (1, 2, 9)] := by decide +kernel
theorem test_circleFB :
    lit (exec (.circleFB 0 1 1 0 0xFF000080) (withSlots [owned 3 3 .rgba8888])) 0 = [(1, 1, 0x80000000)] := by
  decide +kernel
theorem test_circleO :
    (lit (exec (.circleO 0 4 4 2 9) (withSlots [owned 8 8 .rgba8888])) 0).map (fun p => (p.1, p.2.1)) =
      [(3, 2), (4, 2), (5, 2), (2, 3), (6, 3), (2, 4), (6, 4), (2, 5), (6, 5), (3, 6), (4, 6), (5, 6)] := by
  decide +kernel
/-- Each symmetric pixel is blended once. -/
theorem test_circleOB :
    lit (exec (.circleOB 0 1 1 1 0xFF000080) (withSlots [owned 3 3 .rgba8888])) 0 =
      [(1, 0, 0x80000000), (0, 1, 0x80000000), (2, 1, 0x80000000), (1, 2, 0x80000000)] := by decide +kernel
theorem test_circleAaF :
    lit (exec (.circleAaF 0 1 1 0x180 0xFFFFFFFF) (withSlots [owned 3 3 .rgba8888])) 0 =
      [(0, 0, 0x95959500), (1, 0, 0xFFFFFF00), (2, 0, 0x95959500), (0, 1, 0xFFFFFF00), (1, 1, 0xFFFFFF00),
       (2, 1, 0xFFFFFF00), (0, 2, 0x95959500), (1, 2, 0xFFFFFF00), (2, 2, 0x95959500)] := by decide +kernel
theorem test_circleAaO :
    lit (exec (.circleAaO 0 2 2 0x200 0xFFFFFFFF) (withSlots [owned 5 5 .rgba8888])) 0 =
      [(1, 0, 0x43434300), (2, 0, 0x7F7F7F00), (3, 0, 0x43434300), (0, 1, 0x43434300), (4, 1, 0x43434300),
       (0, 2, 0x7F7F7F00), (4, 2, 0x7F7F7F00), (0, 3, 0x43434300), (4, 3, 0x43434300), (1, 4, 0x43434300),
       (2, 4, 0x7F7F7F00), (3, 4, 0x43434300)] := by decide +kernel

/-! ### Dithering and composition: 95 V12, V13 -/

theorem test_dither :
    lit (exec (.dither 0 0x80808000) (withSlots [owned 2 1 .rgba8888 [(0, 127), (3, 255), (4, 250), (7, 9)]])) 0 =
      [(0, 0, 0x000000FF), (1, 0, 0x80000009)] := by decide +kernel
/-- 95 P5, on a Borrowed gray8 buffer. -/
theorem test_dither_borrowed :
    (after (exec (.dither 0 0x80808000)
      { withSlots [borrowed 2 2 .gray8 0x1000 7] with
        hostMem := [(0x1000, 100), (0x1001, 100), (0x1002, 100), (0x1003, 100)] })).hostMem =
      [(0x1001, 0x80), (0x1002, 0x80)] := by decide +kernel
theorem test_ditherD :
    bytesOf (exec (.ditherD 0 3) (withSlots [owned 2 1 .rgb565 [(0, 0x08), (1, 0xFC)]])) 0 = [(0, 0x08), (1, 0xFC)] ∧
    said (exec (.ditherD 0 11) (withSlots [owned 2 1 .rgb565])) = [2] := by decide +kernel

/-- The target and the source of 95 V13. -/
def composePair : State :=
  withSlots [owned 2 1 .rgba8888 [(0, 200), (1, 200), (2, 200), (3, 255), (4, 200), (5, 200), (6, 200), (7, 255)],
    owned 2 1 .rgba8888 [(0, 10), (1, 20), (2, 30), (4, 40), (5, 50), (6, 60), (7, 128)]]

theorem test_composeOp :
    lit (exec (.composeOp 0 1 0 0 0 0 2 1 1 1) composePair) 0 = [(0, 0, 0x0A141E00), (1, 0, 0x28323C80)] ∧
    said (exec (.composeOp 0 1 0 0 0 0 2 1 0 1) composePair) = [1] := by decide +kernel
theorem test_composeOp_self_overlap :
    lit (exec (.composeOp 0 0 1 0 0 0 3 1 1 1)
      (withSlots [owned 4 1 .rgba8888 [(0, 1), (3, 255), (4, 2), (7, 255), (8, 3), (11, 255), (12, 4), (15, 255)]])) 0 =
      [(0, 0, 0x010000FF), (1, 0, 0x010000FF), (2, 0, 0x010000FF), (3, 0, 0x010000FF)] := by decide +kernel
theorem test_composeSkip :
    lit (exec (.composeSkip 0 1 0 0 0 0 2 1 1 1) composePair) 0 = [(0, 0, 0xC8C8C8FF), (1, 0, 0x28323C80)] := by
  decide +kernel
theorem test_composeBlend :
    lit (exec (.composeBlend 0 1 0 0 0 0 2 1 1 1) composePair) 0 = [(0, 0, 0xC8C8C8FF), (1, 0, 0x777C81FF)] ∧
    said (exec (.composeBlend 0 1 0 0 0 0 2 1 2 1) composePair) = [6] ∧
    said (exec (.composeBlend 0 1 0 0 0 0 1 1 0 2) composePair) = [1] := by decide +kernel

/-! ### Witnesses: for each statement with hypotheses, a state and operands that meet them together, clause by clause -/

/-- An Owned 3×3 mono1 buffer, a Borrowed rgba8888 pixel in the last four host bytes, and an Empty slot. -/
def sample : State := withSlots [owned 3 3 .mono1, borrowed 1 1 .rgba8888 0xFFFFFFFFFFFFFFFC 7, none]

/-- The descriptors of its two Live slots. -/
def mono : Drawbuffer := ⟨3, 3, .mono1, .owned []⟩
def lastBytes : Drawbuffer := ⟨1, 1, .rgba8888, .borrowed 0xFFFFFFFFFFFFFFFC 7⟩

/-- The hypotheses of a command on a Live buffer whose memory exists: an Owned one, and a Borrowed one that ends with
the last host byte. -/
abbrev live : Prop :=
  (sample.slot 0 = some mono ∧ mono.addressable = true) ∧ sample.slot 1 = some lastBytes ∧ lastBytes.addressable = true

theorem sample_live : live := by decide +kernel

/-- An Owned buffer of one byte fits every MEM_LIMIT. -/
theorem one_le_memLimit : 1 ≤ Config.memLimit := by unfold Config.memLimit; omega

theorem sample_inv (port : List Word) : ({ sample with slots := [owned 1 1 .gray8 [(0, 5)],
    borrowed 1 1 .rgba8888 0xFFFFFFFFFFFFFFFC 7, none], hostMem := [(0xFFFFFFFFFFFFFFFF, 1)], port := port } :
      State).Inv := by
  have h := one_le_memLimit
  refine ⟨by simp, by simp, ?_, Or.inl rfl, ?_⟩
  swap
  · exact (by decide : Memory.wf [(0xFFFFFFFFFFFFFFFF, 1)] ∧ ∀ c ∈ [((0xFFFFFFFFFFFFFFFF : Nat), (1 : Byte))], c.1 < 2 ^ 64)
  intro d hd
  simp only [owned, borrowed, List.mem_cons, Option.some.injEq, reduceCtorEq, List.not_mem_nil, or_false] at hd
  rcases hd with rfl | rfl
  · exact ⟨by decide, by decide, by decide, by decide, by decide, h, by decide, by decide⟩
  · exact ⟨by decide, by decide, by decide, by decide, by decide, trivial⟩

theorem witness_DecodeOfEncode : (Instr.load 0 5 [1, 2]).wellFormed = true ∧ (Instr.close 255).wellFormed = true := by
  decide
theorem witness_EncodeOfDecode : decode [0x0000001A, 5, 1, 2, 9] = .ok (.load 0 5 [1, 2], [9]) := by decide
theorem witness_HeaderAcceptedExactlyByTheMap :
    decodeHeader 0x02030250 = some ⟨.composeBlend, 3, 2⟩ ∧
    (legalHeader 0x02030250 ∧ legalHeader 0x00FF0332 ∧ legalHeader 0x00000006) ∧
    ¬ legalHeader 0x02030350 ∧ ¬ legalHeader 0x00FF0432 ∧ ¬ legalHeader 0x00000007 := by
  refine ⟨by decide, ?_⟩
  simp [legalHeader, mappedOpcode, legalMode, opcodeWithoutT]
theorem witness_StepRunsTheDecodedCommand :
    (feed [none] [0x00000010, 1, 1, 1, 9]).faultCause = 0 ∧
    decode (feed [none] [0x00000010, 1, 1, 1, 9]).port = .ok (.new 0 1 1 1, [9]) ∧
    (feed [none] [0x00000010, 1, 1, 1, 9]).handleRule (Instr.new 0 1 1 1).header := by
  refine ⟨by decide, by decide, ?_⟩
  simp [State.handleRule, Instr.header, Instr.op, Op.opc, Instr.target, feed, withSlots]
theorem witness_HeaderFaults :
    ((feed [none] [7, 9]).port = 7 :: [9] ∧ (feed [none] [7, 9]).faultCause = 0 ∧ ¬ legalHeader 7 ∧
      ¬ legalHeader 0x00001003 ∧ ¬ legalHeader 0x00000230 ∧ ¬ legalHeader 0x00010003 ∧ ¬ legalHeader 0x01000030) ∧
    (feed [none] [0x13, 9]).port = 0x13 :: [9] ∧ (feed [none] [0x13, 9]).faultCause = 0 ∧ legalHeader 0x13 ∧
    decodeHeader 0x13 = some ⟨.width, 0, 0⟩ ∧ ¬ (feed [none] [0x13, 9]).handleRule ⟨.width, 0, 0⟩ := by
  refine ⟨⟨rfl, by decide, ?_⟩, rfl, by decide, ?_, by decide, ?_⟩
  · simp [legalHeader, mappedOpcode, legalMode, opcodeWithoutT]
  · simp [legalHeader, mappedOpcode, legalMode, opcodeWithoutT]
  · simp [State.handleRule, State.liveAt, Op.opc, feed, withSlots]
theorem witness_EveryMeaningChecksItsHandles :
    ¬ sample.handleRule (Instr.width 2).header ∧ ¬ sample.handleRule (Instr.close 3).header ∧
    ¬ sample.handleRule (Instr.new 0 1 1 1).header ∧
    ¬ sample.handleRule (Instr.composeOp 0 2 0 0 0 0 1 1 1 1).header := by
  simp [State.handleRule, State.liveAt, Instr.header, Instr.op, Instr.target, Instr.source, Op.opc, sample, withSlots,
    owned]
theorem witness_FaultedStateAnswersEachWord :
    ({ feed [none] [0x13] with fault := 2 } : State).faultCause ≠ 0 ∧
    ({ feed [none] [0x13] with fault := 2 } : State).port = 0x13 :: [] := by decide
theorem witness_OnlyResetClearsTheFault :
    ({ feed [none] [0x13] with fault := 2 } : State).faultCause ≠ 0 ∧
    step { feed [none] [0x13] with fault := 2 } = .next { feed [none] [] with fault := 2, resp := [0x280] } :=
  ⟨by decide, by rfl⟩
theorem witness_WaitingMovesNothing :
    (withSlots [none]).port = [] ∧ (feed [none] [3]).port = 3 :: [] ∧ (feed [none] [3]).faultCause = 0 ∧
    decodeHeader 3 = some ⟨.fmtBpp, 0, 0⟩ ∧ (feed [none] [3]).handleRule ⟨.fmtBpp, 0, 0⟩ ∧
    decode (feed [none] [3]).port = .error .incomplete := by
  refine ⟨by decide, by decide, by decide, by decide, ?_, by decide⟩
  simp [State.handleRule, Op.opc]
theorem witness_StepKeepsTheInvariant :
    ∃ s s' : State, s.Inv ∧ step s = .next s' ∧ s'.resp = [0, 16] := ⟨_, _, sample_inv [3, 4], rfl, rfl⟩
theorem witness_ResetMeetsTheInvariant : ∃ s : State, s.Inv ∧ s.slot 1 = some lastBytes := ⟨_, sample_inv [3], rfl⟩
theorem witness_FaultsArePrecise :
    ∃ s', step (feed [none] [7, 9]) = .next s' ∧ s'.fault ≠ (feed [none] [7, 9]).fault := ⟨_, rfl, by decide⟩
theorem witness_ErrorsChangeNoState :
    (∃ s', exec (.fmtSize 0 0 0) sample = .next s' ∧ s'.resp = sample.resp ++ [1]) ∧
    ∃ s', exec (.composeBlend 0 1 0 0 0 0 1 1 1 2) sample = .next s' ∧ s'.resp = sample.resp ++ [6] :=
  ⟨⟨_, rfl, rfl⟩, ⟨_, rfl, rfl⟩⟩
theorem witness_EveryCommandAnswersOnce :
    said (exec (.width 2) sample) = [0x280] ∧ said (exec (.fmtBpp 11) sample) = [2] ∧
    said (exec (.width 0) sample) = [0, 3] ∧ said (exec (.close 1) sample) = [0x00010040, 7, 0] := by decide +kernel
theorem witness_CommandsTouchOnlyTheirTarget :
    (∃ s', exec (.setPixel 1 0 0 5) sample = .next s') ∧ sample.handleRule (Instr.setPixel 1 0 0 5).header := by
  refine ⟨⟨_, rfl⟩, ?_⟩
  simp [State.handleRule, State.liveAt, Instr.header, Instr.op, Instr.target, Op.opc, sample, withSlots, borrowed]
theorem witness_PackedRoundTrip :
    (1 : Word).toNat < 2 ^ Format.mono1.bpp ∧ (0xFFFF : Word).toNat < 2 ^ Format.bgr565.bpp ∧
    (0xFFFFFFFF : Word).toNat < 2 ^ Format.bgra8888.bpp := by decide
theorem witness_RepresentableRoundTrip :
    representable .mono1 0xFFFFFFFF ∧ representable .mono1 0 ∧ representable .gray8 0x5A5A5A5A ∧
    representable .rgb332 0xE08040FF ∧ representable .rgb565 0xF88040FF ∧ representable .bgr888 0xFF8040FF := by
  simp [representable, pixR, pixG, pixB, pixA]
theorem witness_CodecCommandsComplete :
    Format.mono1.id = (0 : Word).toNat ∧ Format.bgra8888.id = (10 : Word).toNat ∧ 10 < (11 : Word).toNat := by decide
theorem witness_FmtSizeIsExact :
    ((0 : Word).toInt ≤ 0 ∧ (0x80000000 : Word).toInt ≤ 0) ∧ 0 < (1 : Word).toInt ∧ 0 < (0x7FFFFFFF : Word).toInt ∧
    10 < (11 : Word).toNat ∧ Format.bgra8888.id = (10 : Word).toNat := by decide
theorem witness_FmtIdMatchesAllTwelveBytes :
    Format.mono1.nameWords = [0x6F6E6F6D, 0x31, 0] ∧ ∀ f : Format, f.nameWords ≠ [0x6F6E6F6D, 0x31, 1] := by
  refine ⟨by decide, fun f => ?_⟩
  cases f <;> decide
theorem witness_BlendCompletes :
    (pixA 0x55667700).toNat = 0 ∧ (pixA 0x556677FF).toNat = 255 ∧ (pixA 0x55667701).toNat ≠ 0 ∧
    (pixA 0x556677FE).toNat ≠ 255 := by decide
theorem witness_BlendProperties : pixR 0x10203040 = pixR 0x102030FF ∧ pixB 0x10203040 = pixB 0x102030FF := by decide
/-- The draw is free: one of the two clauses holds, and the second holds of a size above every MEM_LIMIT. -/
theorem witness_NewMakesAZeroedBuffer :
    (sample.slots[(2 : Handle).toNat]? = some none ∧ 0 < (1 : Word).toInt ∧ Format.mono1.id = (0 : Word).toNat ∧
      Machine.byteLength .mono1 1 1 ≤ Config.memLimit) ∧
    (Config.allocOk sample.allocDraws = true ∨ Config.allocOk sample.allocDraws = false) ∧
    0 < (0x10000 : Word).toInt ∧ Config.memLimit < Machine.byteLength .gray8 0x10000 0x10000 := by
  refine ⟨⟨by decide, by decide, by decide, one_le_memLimit⟩, by cases Config.allocOk _ <;> simp, by decide, ?_⟩
  have e : Machine.byteLength .gray8 0x10000 0x10000 = 2 ^ 32 := by decide
  have := Config.memLimitLessOne.isLt
  unfold Config.memLimit
  omega
theorem witness_NewReportsErrorsInOrder :
    sample.slots[(2 : Handle).toNat]? = some none ∧ (0 : Word).toInt ≤ 0 ∧ 0 < (1 : Word).toInt ∧
    10 < (11 : Word).toNat := by decide
theorem witness_WrapRecordsTheRegion :
    sample.slots[(2 : Handle).toNat]? = some none ∧ (0 : Word).toInt ≤ 0 ∧ 0 < (0x10001 : Word).toInt ∧
    10 < (11 : Word).toNat ∧ Format.gray8.id = (1 : Word).toNat ∧
    Machine.byteLength .gray8 0x10001 0xFFFF ≤ 2 ^ 32 - 1 ∧ 2 ^ 32 - 1 < Machine.byteLength .gray8 0x10000 0x10000 := by
  decide
theorem witness_CloseEmptiesTheSlot :
    (2 : Handle).toNat < sample.slots.length ∧ sample.slot 2 = none ∧ sample.slot 0 = some mono ∧
    mono.backing = .owned [] ∧ sample.slot 1 = some lastBytes ∧ lastBytes.backing = .borrowed 0xFFFFFFFFFFFFFFFC 7 := by
  decide +kernel
theorem witness_QueriesComplete : sample.slot 0 = some mono := by decide +kernel
theorem witness_GetPixelReadsTheStoredPixel :
    live ∧ (0xFFFFFFFF : Word).toInt = -1 ∧ ((3 : Word).toInt : Int) = mono.w ∧ (2 : Word).toInt < mono.w ∧
    (0 : Word).toInt < lastBytes.h ∧ lastBytes.fmt ≠ .mono1 := by decide +kernel
theorem witness_SetPixelWritesOnePixel : live ∧ (3 : Word).toInt = mono.w := by decide +kernel
theorem witness_SetPxThenGetPx : live ∧ 2 < mono.w ∧ 2 < mono.h ∧ 0 < lastBytes.w := by decide +kernel
theorem witness_DumpReturnsTheRegion : live := sample_live
theorem witness_LoadStoresVerbatim :
    live ∧ (0 : Word).toNat ≠ mono.byteLength ∧ (2 : Word).toNat = mono.byteLength ∧
    (Instr.load 0 2 [0xFFFF]).wellFormed = true := by decide +kernel
theorem witness_ClearFillsEveryPixel :
    live ∧ (256 : Word).toInt = 256 ∧ (0xFFFFFFFF : Word).toInt = -1 ∧ (0 : Word).toInt = 0 ∧
    (255 : Word).toInt = 255 ∧ mono.fmt = .mono1 ∧ mono.w * mono.h % 8 = 1 := by decide +kernel
theorem witness_LineDraws : live := sample_live
/-- The last point of a walk, and the one point of a walk that goes nowhere. -/
theorem witness_BresenhamWalk : (4 : Nat) ≤ max ((4 : Int) - 0).natAbs ((2 : Int) - 0).natAbs ∧
    (0 : Nat) ≤ max ((2 : Int) - 2).natAbs ((2 : Int) - 2).natAbs := by decide
theorem witness_SegmentDistanceIsLeast : (0 : ℚ) ≤ 0 ∧ (0 : ℚ) ≤ 1 ∧ (1 : ℚ) ≤ 1 := by norm_num
theorem witness_FillCoverageIsTheRealFloor : (0 : ℚ) ≤ 0 ∧ (0 : ℚ) ≤ 1 / 2 := by norm_num
theorem witness_LineAaDraws : live := sample_live
/-- A pixel on the edge of the box has positive coverage. -/
theorem witness_LineAaCoverageLiesInTheBox : 0 < coverageFill 255 256 (dist2Seg 1 1 3 1 4 1) := by decide +kernel
theorem witness_RectDraws : live := sample_live
theorem witness_TriangleDraws : live := sample_live
/-- Sorted vertices: culled below and above, on one row, flat top, flat bottom, split; and the split row's pixel. -/
theorem witness_TriangleGeometry :
    (((0, -3) : Point).2 ≤ -2 ∧ ((1, -2) : Point).2 ≤ -1 ∧ ((2, -1) : Point).2 < 0 ∧ ((10 : ℕ) : ℤ) ≤ 10) ∧
    ((3, 2) : Point).2 = ((5, 2) : Point).2 ∧ (0 : Int) < 4 ∧
    ((4, 2) : Point) ∈ trianglePoints 10 (0, 0) (4, 2) (1, 4) ∧
    (trianglePoints 10 (0, 0) (4, 2) (1, 4)).count (4, 2) = 2 ∧
    (trianglePoints 10 (0, 0) (4, 0) (0, 4)).count (4, 0) = 1 := by decide +kernel
theorem witness_CirclePixelSets :
    ((5 + 2, 5 + 1) : Point) ∈ circlePoints 5 5 2 .outline ∧ (-1 : Int) < 0 ∧ (1 : Int) ≤ 2 ∧ (0 : Int) ≤ 1 ∧
    (1 : Int) ≤ 2 := by decide +kernel
theorem witness_CircleDraws : live := sample_live
theorem witness_RingCoverageIsTheRealFloor : (0 : Int) ≤ 0 ∧ (0 : Int) ≤ 4 := by decide
theorem witness_CircleAaDraws : live := sample_live
theorem witness_DitherCompletes : live ∧ 10 < (11 : Word).toNat ∧ Format.bgra8888.id = (10 : Word).toNat := by
  decide +kernel
theorem witness_DitherKeepsQuantisedBuffers :
    sample.slot 1 = some lastBytes ∧ Format.rgb888.id = (5 : Word).toNat ∧
    (∀ P : Word, pixR (dec lastBytes.fmt P) &&& Format.rgb888.standardMasks.mr = pixR (dec lastBytes.fmt P) ∧
      pixG (dec lastBytes.fmt P) &&& Format.rgb888.standardMasks.mg = pixG (dec lastBytes.fmt P) ∧
      pixB (dec lastBytes.fmt P) &&& Format.rgb888.standardMasks.mb = pixB (dec lastBytes.fmt P)) ∧
    ∃ s', exec (.ditherD 1 5) sample = .next s' := by
  have all : ∀ b : Byte, b &&& 0xFF = b := fun b => BitVec.and_allOnes (x := b)
  exact ⟨by decide +kernel, by decide, fun P => ⟨all _, all _, all _⟩, _, rfl⟩
theorem witness_DitherQuantisesEveryPixel : live ∧ lastBytes.inBounds 0 0 = true ∧ lastBytes.fmt = .rgba8888 := by
  decide +kernel
theorem witness_ComposeCompletes :
    live ∧ (0 : Word).toInt < 1 ∧ 1 ≤ (1 : Word).toInt ∧ 1 < (2 : Word).toInt := by decide +kernel
/-- One Owned; and two Borrowed pixels side by side. -/
theorem witness_ComposeCopiesTheRegion :
    (live ∧ (0 : Handle) ≠ 1 ∧ mono.backing = .owned [] ∧ 1 ≤ (1 : Word).toInt) ∧
    (withSlots [borrowed 1 1 .gray8 0x1000 7, borrowed 1 1 .gray8 0x1001 7]).slot 0 =
      some ⟨1, 1, .gray8, .borrowed 0x1000 7⟩ ∧
    (withSlots [borrowed 1 1 .gray8 0x1000 7, borrowed 1 1 .gray8 0x1001 7]).slot 1 =
      some ⟨1, 1, .gray8, .borrowed 0x1001 7⟩ ∧
    (0x1000 : HostAddr).toNat + (Drawbuffer.mk 1 1 .gray8 (.borrowed 0x1000 7)).byteLength ≤
      (0x1001 : HostAddr).toNat := by decide +kernel

end Sys2Proof.Tests
end

/-! ## Proofs of the state's family: the invariant of every step and the sticky FAULT

The development goes from the state's operations up: what keeps `State.Inv`, what a command can do to a state (`Effect`,
one inversion lemma for all 39 commands), what a step can do, and the two statements. -/

namespace Sys2Proof.Machine

/-! ### Legal descriptors -/

/-- A byte write inside an owned array keeps its canonical form and its bounds, so the descriptor stays legal. -/
theorem Drawbuffer.legal_owned_write {d : Drawbuffer} {mem : Memory} (hd : d.legal) (hb : d.backing = .owned mem)
    {off : Nat} (hoff : off < d.byteLength) (v : Byte) :
    ({ d with backing := .owned (mem.write off v) } : Drawbuffer).legal := by
  obtain ⟨hw, hw', hh, hh', hlen, hback⟩ := hd
  simp only [hb] at hback
  obtain ⟨hlim, hwf, hin⟩ := hback
  refine ⟨hw, hw', hh, hh', hlen, hlim, Memory.wf_write hwf off v, fun c hc => ?_⟩
  rcases Memory.mem_write hc with rfl | hc
  · exact hoff
  · exact hin c hc

/-- A positive signed argument is a dimension R36 allows. -/
theorem toNat_s32_bounds {w : S32} (hw : 0 < s32 w) : 1 ≤ (s32 w).toNat ∧ (s32 w).toNat ≤ 2 ^ 31 - 1 := by
  have hlt : s32 w < 2 ^ 31 := BitVec.toInt_lt (x := w)
  omega

/-- MEM_LIMIT lies in its range (R11). -/
theorem Config.memLimit_le : Config.memLimit ≤ 2 ^ 32 - 1 := by
  have hlt : Config.memLimitLessOne.val < 4294967295 := Config.memLimitLessOne.isLt
  unfold Config.memLimit
  omega

/-- What NEW puts into a slot is legal. -/
theorem Drawbuffer.legal_new {w h : S32} (hw : 0 < s32 w) (hh : 0 < s32 h) {f : Format}
    (hlen : Machine.byteLength f (s32 w).toNat (s32 h).toNat ≤ Config.memLimit) :
    (⟨(s32 w).toNat, (s32 h).toNat, f, .owned []⟩ : Drawbuffer).legal := by
  obtain ⟨hw1, hw2⟩ := toNat_s32_bounds hw
  obtain ⟨hh1, hh2⟩ := toNat_s32_bounds hh
  exact ⟨hw1, hw2, hh1, hh2, hlen.trans Config.memLimit_le, hlen, State.reset_hostMem_wf, nofun⟩

/-- What WRAP puts into a slot is legal. -/
theorem Drawbuffer.legal_wrap {w h : S32} (hw : 0 < s32 w) (hh : 0 < s32 h) {f : Format} (base : HostAddr) (ctx : Word)
    (hlen : Machine.byteLength f (s32 w).toNat (s32 h).toNat ≤ 2 ^ 32 - 1) :
    (⟨(s32 w).toNat, (s32 h).toNat, f, .borrowed base ctx⟩ : Drawbuffer).legal := by
  obtain ⟨hw1, hw2⟩ := toNat_s32_bounds hw
  obtain ⟨hh1, hh2⟩ := toNat_s32_bounds hh
  exact ⟨hw1, hw2, hh1, hh2, hlen, trivial⟩

/-! ### What keeps the invariant -/

/-- The invariant speaks of the slots, FAULT and host memory only. -/
theorem State.Inv.congr {s s' : State} (h : s.Inv) (hslots : s'.slots = s.slots) (hfault : s'.fault = s.fault)
    (hhost : s'.hostMem = s.hostMem) : s'.Inv := by
  unfold State.Inv
  rw [hslots, hfault, hhost]
  exact h

theorem State.Inv.respond {s : State} (h : s.Inv) (ws : List Word) : (s.respond ws).Inv := h.congr rfl rfl rfl

theorem State.Inv.setPort {s : State} (h : s.Inv) (ws : List Word) : (s.setPort ws).Inv := h.congr rfl rfl rfl

theorem State.Inv.takeFault {s : State} (h : s.Inv) (c : FaultCause) : (s.takeFault c).Inv := by
  obtain ⟨hmin, hmax, hlegal, -, hhost⟩ := h
  refine ⟨hmin, hmax, hlegal, .inr ?_, hhost⟩
  cases c
  · exact .inl rfl
  · exact .inr rfl

theorem State.Inv.legal_of_slot {s : State} (h : s.Inv) {t : Handle} {d : Drawbuffer} (hs : s.slot t = some d) :
    d.legal := by
  obtain ⟨-, -, hlegal, -⟩ := h
  exact hlegal d (State.mem_of_slot hs)

theorem State.Inv.setSlot {s : State} (h : s.Inv) (t : Handle) {x : Option Drawbuffer}
    (hx : ∀ d, x = some d → d.legal) : (s.setSlot t x).Inv := by
  obtain ⟨hmin, hmax, hlegal, hrest⟩ := h
  refine ⟨by simpa using hmin, by simpa using hmax, fun d hd => ?_, hrest⟩
  rcases List.mem_or_eq_of_mem_set hd with hd | hd
  · exact hlegal d hd
  · exact hx d hd.symm

theorem State.Inv.hostMem_write {s : State} (h : s.Inv) {a : Nat} (ha : a < 2 ^ 64) (v : Byte) :
    ({ s with hostMem := s.hostMem.write a v } : State).Inv := by
  obtain ⟨hmin, hmax, hlegal, hfault, hwf, hbound⟩ := h
  refine ⟨hmin, hmax, hlegal, hfault, Memory.wf_write hwf a v, fun c hc => ?_⟩
  rcases Memory.mem_write hc with rfl | hc
  · exact ha
  · exact hbound c hc

/-- A byte offset of an addressable Borrowed buffer is a host address (R60). -/
theorem Drawbuffer.base_add_lt {d : Drawbuffer} (ha : d.addressable = true) {base : HostAddr} {ctx : Word}
    (hb : d.backing = .borrowed base ctx) {off : Nat} (hoff : off < d.byteLength) : base.toNat + off < 2 ^ 64 := by
  simp only [Drawbuffer.addressable, hb, decide_eq_true_eq] at ha
  omega

theorem State.Inv.writeByte {s : State} (h : s.Inv) {t : Handle} (ha : ∀ d, s.slot t = some d → d.addressable = true)
    (off : Nat) (v : Byte) : (s.writeByte t off v).Inv := by
  rcases s.writeByte_cases t off v with e | ⟨d, hs, hoff, ⟨mem, hb, e⟩ | ⟨base, ctx, hb, e⟩⟩ <;> rw [e]
  · exact h
  · exact h.setSlot t fun d' hd' =>
      Option.some.inj hd' ▸ Drawbuffer.legal_owned_write (h.legal_of_slot hs) hb hoff v
  · exact h.hostMem_write (Drawbuffer.base_add_lt (ha d hs) hb hoff) v

/-- Byte writes keep a buffer's region inside the address space. -/
theorem ByteWrites.addressable {t : Handle} {s s' : State} (hw : ByteWrites t s s') {d : Drawbuffer}
    (hs : s.slot t = some d) (ha : d.addressable = true) : ∀ d', s'.slot t = some d' → d'.addressable = true := by
  obtain ⟨-, -, -, -, -, -, -, hdesc⟩ := hw.frame
  obtain ⟨d₁, hd₁, hsame⟩ := hdesc d hs
  intro d' hd'
  obtain rfl : d₁ = d' := Option.some.inj (hd₁.symm.trans hd')
  rw [hsame.addressable_eq, ha]

theorem ByteWrites.inv {t : Handle} {s s' : State} (hw : ByteWrites t s s') {d : Drawbuffer} (hs : s.slot t = some d)
    (ha : d.addressable = true) (h : s.Inv) : s'.Inv := by
  induction hw with
  | refl => exact h
  | write hw off v ih => exact ih.writeByte (hw.addressable hs ha) off v

theorem ByteWrites.slots_length {t : Handle} {s s' : State} (hw : ByteWrites t s s') :
    s'.slots.length = s.slots.length := by
  obtain ⟨-, -, -, -, hlen, -⟩ := hw.frame
  exact hlen

/-! ### What a command can do -/

/-- s' is a next state that command i can answer in state s, with the guard under which it does. -/
inductive Effect (i : Instr) (s : State) : State → Prop
  /-- The handle check of R328 fails. -/
  | badHandle (hbad : ¬ s.handleRule i.header) : Effect i s (s.takeFault .badHandle)
  /-- An error: one word, no state change (R320). -/
  | error (e : ErrorCode) : Effect i s (s.respond [statusError e])
  /-- OK and results, no state change. -/
  | answer (results : List Word) : Effect i s (s.respond (statusOk :: results))
  /-- OK after byte writes to the target's space, which exists. -/
  | write {s' : State} {d : Drawbuffer} (hs : s.slot i.target = some d) (ha : d.addressable = true)
      (hw : ByteWrites i.target s s') : Effect i s (s'.respond [statusOk])
  /-- NEW whose allocation fails: the draw is taken (log entry 2). -/
  | denied : Effect i s (State.respond { s with allocDraws := s.allocDraws + 1 } [statusError .allocationFailure])
  /-- NEW fills an Empty slot. -/
  | new {d : Drawbuffer} (hempty : s.slots[i.target.toNat]? = some none) (hd : d.legal) :
      Effect i s ((State.setSlot { s with allocDraws := s.allocDraws + 1 } i.target (some d)).respond [statusOk])
  /-- WRAP fills an Empty slot. -/
  | wrap {d : Drawbuffer} (hempty : s.slots[i.target.toNat]? = some none) (hd : d.legal) :
      Effect i s ((s.setSlot i.target (some d)).respond [statusOk])
  /-- CLOSE empties an Owned slot. -/
  | close {t : Handle} (hi : i = .close t) : Effect i s ((s.setSlot t none).respond [statusOk])
  /-- CLOSE empties a Borrowed slot and sends its teardown context (R341). -/
  | teardown {t : Handle} {d : Drawbuffer} {base : HostAddr} {ctx : Word} (hi : i = .close t)
      (hs : s.slot t = some d) (hb : d.backing = .borrowed base ctx) :
      Effect i s (((s.respond [teardownWord t, ctx]).setSlot t none).respond [statusOk])

theorem Effect.inv {i : Instr} {s s' : State} (he : Effect i s s') (h : s.Inv) : s'.Inv := by
  have draw : ({ s with allocDraws := s.allocDraws + 1 } : State).Inv := h.congr rfl rfl rfl
  cases he with
  | badHandle => exact h.takeFault _
  | error | answer => exact h.respond _
  | write hs ha hw => exact (hw.inv hs ha h).respond _
  | denied => exact draw.respond _
  | new _ hd => exact (draw.setSlot _ (by simpa using hd)).respond _
  | wrap _ hd => exact (h.setSlot _ (by simpa using hd)).respond _
  | close => exact (h.setSlot _ (by simp)).respond _
  | teardown => exact ((h.respond _).setSlot _ (by simp)).respond _

theorem Effect.slots_length {i : Instr} {s s' : State} (he : Effect i s s') : s'.slots.length = s.slots.length := by
  cases he with
  | write _ _ hw => exact hw.slots_length
  | badHandle | error | answer | denied => rfl
  | new | wrap | close | teardown => exact State.length_setSlot ..

/-! ### The handle checks, as effects -/

/-- The opcodes whose target must be Live: every per-buffer command but NEW, WRAP and CLOSE (R328). -/
def opcodeWithLiveT (opc : Nat) : Bool :=
  decide (¬ opcodeWithoutT opc ∧ ¬ (opc = 0x10 ∨ opc = 0x11) ∧ opc ≠ 0x12)

theorem State.liveAt_target {s : State} {hd : Header} (hop : opcodeWithLiveT hd.op.opc.toNat = true)
    (h : s.handleRule hd) : s.liveAt hd.t := by
  obtain ⟨h1, h2, h3⟩ := of_decide_eq_true hop
  simp only [State.handleRule, h1, h2, h3, if_false] at h
  split at h
  · exact h.1
  · exact h

theorem State.liveAt_source {s : State} {hd : Header} (hop : hd.op.opc.toNat = 0x50) (h : s.handleRule hd) :
    s.liveAt hd.s := by
  have hboth : s.liveAt hd.t ∧ s.liveAt hd.s := by simpa [State.handleRule, hop] using h
  exact hboth.2

theorem State.not_liveAt {s : State} {t : Handle} (h : s.slot t = none) : ¬ s.liveAt t := by
  rintro ⟨d, hd⟩
  simp [State.slot_eq_some.mpr hd] at h

section
variable {i : Instr} {s s' : State}

theorem withLive_effect {t : Handle} {k : Drawbuffer → Result} (hrule : s.handleRule i.header → s.liveAt t)
    (hk : ∀ d, s.slot t = some d → k d = .next s' → Effect i s s') (h : withLive t s k = .next s') :
    Effect i s s' := by
  obtain ⟨hnone, rfl⟩ | ⟨d, hs, h⟩ := withLive_next h
  · exact .badHandle fun hr => State.not_liveAt hnone (hrule hr)
  · exact hk d hs h

theorem withFormat_effect {fmt : U32} {k : Format → Result} (hk : ∀ f, k f = .next s' → Effect i s s')
    (h : withFormat fmt s k = .next s') : Effect i s s' := by
  obtain ⟨-, rfl⟩ | ⟨f, -, h⟩ := withFormat_next h
  · exact .error _
  · exact hk f h

theorem withDimensions_effect {w h : S32} {k : Nat → Nat → Result}
    (hk : 0 < s32 w → 0 < s32 h → k (s32 w).toNat (s32 h).toNat = .next s' → Effect i s s')
    (hwh : withDimensions w h s k = .next s') : Effect i s s' := by
  obtain ⟨-, rfl⟩ | ⟨hw, hh, hwh⟩ := withDimensions_next hwh
  · exact .error _
  · exact hk hw hh hwh

theorem withEmpty_effect {t : Handle} {k : Result} (hrule : s.handleRule i.header → s.slots[t.toNat]? = some none)
    (hk : s.slots[t.toNat]? = some none → k = .next s' → Effect i s s') (h : withEmpty t s k = .next s') :
    Effect i s s' := by
  by_cases he : s.slots[t.toNat]? = some none
  · exact hk he (withEmpty_pass he k ▸ h)
  · rw [withEmpty_fail he] at h
    obtain rfl := Host.Outcome.next.inj h
    exact .badHandle fun hr => he (hrule hr)

theorem respondOk_effect {results : List Word} (h : s.respondOk results = .next s') : Effect i s s' := by
  obtain rfl := Host.Outcome.next.inj h
  exact .answer results

theorem raise_effect {e : ErrorCode} (h : s.raise e = .next s') : Effect i s s' := by
  obtain rfl := Host.Outcome.next.inj h
  exact .error e

/-- A command that writes bytes of its Live target's memory and answers OK. -/
theorem write_effect {d : Drawbuffer} {s₁ : State} (hs : s.slot i.target = some d) (hw : ByteWrites i.target s s₁)
    (h : onMemory d (s₁.respondOk []) = .next s') : Effect i s s' := by
  obtain ⟨ha, h⟩ := onMemory_next h
  obtain rfl := Host.Outcome.next.inj h
  exact .write hs ha hw

/-- A command that does nothing but check its Live target and write bytes of its memory. -/
theorem withLive_write_effect {f : Drawbuffer → State} (hop : opcodeWithLiveT i.op.opc.toNat = true)
    (hf : ∀ d, ByteWrites i.target s (f d))
    (h : withLive i.target s (fun d => onMemory d ((f d).respondOk [])) = .next s') : Effect i s s' :=
  withLive_effect (State.liveAt_target hop) (fun d hs h => write_effect hs (hf d) h) h

/-- A command that does nothing but check its Live target and answer from it. -/
theorem withLive_answer_effect {f : Drawbuffer → List Word} (hop : opcodeWithLiveT i.op.opc.toNat = true)
    (h : withLive i.target s (fun d => s.respondOk (f d)) = .next s') : Effect i s s' :=
  withLive_effect (State.liveAt_target hop) (fun _ _ h => respondOk_effect h) h

/-- A command that does nothing but check its Live target and answer from its memory. -/
theorem withLive_read_effect {f : Drawbuffer → List Word} (hop : opcodeWithLiveT i.op.opc.toNat = true)
    (h : withLive i.target s (fun d => onMemory d (s.respondOk (f d))) = .next s') : Effect i s s' :=
  withLive_effect (State.liveAt_target hop) (fun _ _ h => respondOk_effect (onMemory_next h).2) h

end

/-! ### The meanings, as effects -/

section
variable {s s' : State}

theorem execFmtSize_effect {fmt : U32} {w h : S32} (hx : execFmtSize fmt w h s = .next s') :
    Effect (.fmtSize fmt w h) s s' := by
  refine withDimensions_effect (fun _ _ hk => ?_) hx
  exact withFormat_effect (fun _ => respondOk_effect) hk

theorem execFmtId_effect {name0 name1 name2 : Word} (h : execFmtId name0 name1 name2 s = .next s') :
    Effect (.fmtId name0 name1 name2) s s' := by
  unfold execFmtId at h
  split at h
  · exact respondOk_effect h
  · exact raise_effect h

theorem execNew_effect {t : Handle} {w h : S32} {fmt : U32} (hx : execNew t w h fmt s = .next s') :
    Effect (.new t w h fmt) s s' := by
  refine withEmpty_effect id (fun hempty => withDimensions_effect fun hw hh => withFormat_effect fun f hk => ?_) hx
  simp only at hk
  split at hk
  · obtain rfl := Host.Outcome.next.inj hk
    exact .denied
  · next hfits =>
    obtain rfl := Host.Outcome.next.inj hk
    rw [not_or, not_lt] at hfits
    exact .new hempty (Drawbuffer.legal_new hw hh hfits.1)

theorem execWrap_effect {t : Handle} {w h : S32} {fmt baseLo baseHi ctx : U32}
    (hx : execWrap t w h fmt baseLo baseHi ctx s = .next s') :
    Effect (.wrap t w h fmt baseLo baseHi ctx) s s' := by
  refine withEmpty_effect id (fun hempty => withDimensions_effect fun hw hh => withFormat_effect fun f hk => ?_) hx
  split at hk
  · exact raise_effect hk
  · next hfits =>
    obtain rfl := Host.Outcome.next.inj hk
    exact .wrap hempty (Drawbuffer.legal_wrap hw hh _ ctx (not_lt.mp hfits))

theorem execClose_effect {t : Handle} (h : execClose t s = .next s') : Effect (.close t) s s' := by
  unfold execClose at h
  by_cases ht : t.toNat < s.slots.length
  · rw [withExisting_pass ht] at h
    cases hs : s.slot t with
    | none => exact respondOk_effect (by simpa only [hs] using h)
    | some d =>
      simp only [hs] at h
      split at h <;> obtain rfl := Host.Outcome.next.inj h
      · exact .close rfl
      · next hb => exact .teardown rfl hs hb
  · rw [withExisting_fail ht] at h
    obtain rfl := Host.Outcome.next.inj h
    exact .badHandle fun hr => ht hr

theorem execLoad_effect {t : Handle} {n : U32} {data : List Word} (h : execLoad t n data s = .next s') :
    Effect (.load t n data) s s' := by
  refine withLive_effect (State.liveAt_target rfl) (fun d hs hk => ?_) h
  split at hk
  · exact raise_effect hk
  · exact write_effect hs (State.memWrite_byteWrites ..) hk

theorem execClear_effect {t : Handle} {r g b a : S32} (h : execClear t r g b a s = .next s') :
    Effect (.clear t r g b a) s s' := by
  refine withLive_effect (State.liveAt_target rfl) (fun d hs hk => ?_) h
  split at hk
  · exact write_effect hs (State.putAll_byteWrites ..) hk
  · exact raise_effect hk

theorem execDitherD_effect {t : Handle} {fmt : U32} (h : execDitherD t fmt s = .next s') :
    Effect (.ditherD t fmt) s s' :=
  withLive_effect (State.liveAt_target rfl)
    (fun _ hs => withFormat_effect fun _ => write_effect hs (State.ditherAll_byteWrites ..)) h

/-- COMPOSE under any policy writes to its target only, for each of its three rows. -/
theorem compose_effect {i : Instr} {policy : AlphaPolicy} {tx ty sx sy w h scaleX scaleY : S32}
    (hop : i.op.opc.toNat = 0x50)
    (hx : compose i.target i.source policy tx ty sx sy w h scaleX scaleY s = .next s') : Effect i s s' := by
  have hlive : opcodeWithLiveT i.header.op.opc.toNat = true := by simp [Instr.header, hop, opcodeWithLiveT]
  refine withLive_effect (State.liveAt_target hlive) (fun dt ht => ?_) hx
  refine withLive_effect (State.liveAt_source hop) (fun ds _ hk => ?_)
  split at hk
  · exact raise_effect hk
  · split at hk
    · exact raise_effect hk
    · obtain ⟨ha, hk⟩ := onMemory_next hk
      obtain ⟨-, hk⟩ := onMemory_next hk
      obtain rfl := Host.Outcome.next.inj hk
      exact .write ht ha (State.composeAll_byteWrites ..)

/-- Every next state a command answers is one of the effects. -/
theorem exec_effect {i : Instr} (h : exec i s = .next s') : Effect i s s' := by
  cases i with
  | pxDecode | pxEncode | fmtBpp | fmtName => exact withFormat_effect (fun _ => respondOk_effect) h
  | fmtSize => exact execFmtSize_effect h
  | fmtId => exact execFmtId_effect h
  | blend => exact respondOk_effect h
  | new => exact execNew_effect h
  | wrap => exact execWrap_effect h
  | close => exact execClose_effect h
  | width | height | pixelFormat | byteLength => exact withLive_answer_effect rfl h
  | getPixel | dump => exact withLive_read_effect rfl h
  | setPixel => exact withLive_write_effect rfl (fun _ => State.setPx_byteWrites ..) h
  | load => exact execLoad_effect h
  | clear => exact execClear_effect h
  | line | lineB | rectF | rectFB | rectO | rectOB | triangle | triangleB | circleF | circleFB | circleO | circleOB =>
    exact withLive_write_effect rfl (fun _ => State.putAll_byteWrites ..) h
  | lineAa | circleAaF | circleAaO =>
    exact withLive_write_effect rfl (fun _ => State.blendCoverage_byteWrites ..) h
  | dither => exact withLive_write_effect rfl (fun _ => State.ditherAll_byteWrites ..) h
  | ditherD => exact execDitherD_effect h
  | composeOp | composeSkip | composeBlend => exact compose_effect rfl h

end

/-! ### What a step can do -/

/-- With an idle port the step leaves the state as it is (R351; log entry 5). -/
theorem step_idle {s : State} (hp : s.port = []) : step s = .next s := by
  simp [step, State.fetch, hp]

/-- In the faulted state the step reads one word and answers it (R327). -/
theorem step_faulted {s : State} {w : Word} {rest : List Word} (hf : s.faultCause ≠ 0) (hp : s.port = w :: rest) :
    step s = .next (s.setPort rest).answerFaulted := by
  have hfetch : s.fetch = .answer rest := by
    unfold State.fetch
    rw [hp]
    exact if_pos hf
  simp only [step, hfetch]

/-- Everything a step that answers a next state can have done, by what it found at the port. -/
theorem step_next {s s' : State} (h : step s = .next s') :
    (s.fetch = .idle ∧ s' = s) ∨
    (∃ rest, s.fetch = .answer rest ∧ s' = (s.setPort rest).answerFaulted) ∨
    (∃ cause rest, s.fetch = .trap cause rest ∧ s' = (s.setPort rest).takeFault cause) ∨
    ∃ i rest, s.fetch = .command i rest ∧ Effect i (s.setPort rest) s' := by
  unfold step at h
  split at h
  case h_1 hf => exact .inl ⟨hf, (Host.Outcome.next.inj h).symm⟩
  case h_2 rest hf => exact .inr (.inl ⟨rest, hf, (Host.Outcome.next.inj h).symm⟩)
  case h_3 cause rest hf => exact .inr (.inr (.inl ⟨cause, rest, hf, (Host.Outcome.next.inj h).symm⟩))
  case h_4 => cases h
  case h_5 i rest hf => exact .inr (.inr (.inr ⟨i, rest, hf, exec_effect h⟩))

/-! ### The obligations -/

/-- Settles O12: the four things a step can do keep the invariant and the table's length. -/
theorem stepKeepsTheInvariant : Obligations.StepKeepsTheInvariant := by
  intro s s' hinv h
  obtain ⟨-, rfl⟩ | ⟨rest, -, rfl⟩ | ⟨cause, rest, -, rfl⟩ | ⟨i, rest, -, heff⟩ := step_next h
  · exact ⟨hinv, rfl⟩
  · exact ⟨(hinv.setPort rest).respond _, rfl⟩
  · exact ⟨(hinv.setPort rest).takeFault cause, rfl⟩
  · exact ⟨heff.inv (hinv.setPort rest), heff.slots_length⟩

/-- Settles O10: the faulted state only answers words, and waits where there is none. -/
theorem onlyResetClearsTheFault : Obligations.OnlyResetClearsTheFault := by
  intro s
  refine ⟨s.assertReset_fault, fun s' hf h => ?_⟩
  cases hp : s.port with
  | nil =>
    obtain rfl := Host.Outcome.next.inj ((step_idle hp).symm.trans h)
    exact ⟨rfl, rfl, rfl, rfl⟩
  | cons w rest =>
    obtain rfl := Host.Outcome.next.inj ((step_faulted hf hp).symm.trans h)
    exact ⟨rfl, rfl, rfl, rfl⟩

end Sys2Proof.Machine

/-! ## Proofs of the memory's family: what a command leaves alone

The frame of a command is one predicate, `TouchesOnly`; each effect of `Effect` meets it, and with it every command. -/

namespace Sys2Proof.Machine

/-! ### The frame of a command -/

/-- Host address a lies outside the region of buffer t, if t is Borrowed (R60); so does every address if it is not. -/
def State.outsideRegion (s : State) (t : Handle) (a : Nat) : Prop :=
  ∀ d base ctx, s.slot t = some d → d.backing = .borrowed base ctx → a < base.toNat ∨ base.toNat + d.byteLength ≤ a

/-- From s to s' nothing changed but slot t, host memory in the region of a Borrowed t, FAULT, the response port and the
draw counter; and a slot that stays Live keeps its descriptor but for the owned contents (R35, R74). -/
structure TouchesOnly (t : Handle) (s s' : State) : Prop where
  slotCount : s'.slots.length = s.slots.length
  otherSlots : ∀ g, g ≠ t → s'.slot g = s.slot g
  descriptor : ∀ d d', s.slot t = some d → s'.slot t = some d' → d.sameBut d'
  host : ∀ a, s.outsideRegion t a → s'.hostMem.read a = s.hostMem.read a
  port : s'.port = s.port

theorem State.sameBut_of_slot_eq {s s' : State} {g : Handle} (h : s'.slot g = s.slot g) {d d' : Drawbuffer}
    (hd : s.slot g = some d) (hd' : s'.slot g = some d') : d.sameBut d' := by
  obtain rfl : d = d' := Option.some.inj (hd.symm.trans (h.symm.trans hd'))
  exact d.sameBut_refl

theorem TouchesOnly.respond {t : Handle} {s s' : State} (h : TouchesOnly t s s') (ws : List Word) :
    TouchesOnly t s (s'.respond ws) := by
  obtain ⟨hcount, hother, hdesc, hhost, hport⟩ := h
  exact ⟨hcount, hother, hdesc, hhost, hport⟩

/-- Every slot that stays Live, the target or another, keeps its descriptor but for the owned contents. -/
theorem TouchesOnly.sameBut {t : Handle} {s s' : State} (h : TouchesOnly t s s') {g : Handle} {d d' : Drawbuffer}
    (hd : s.slot g = some d) (hd' : s'.slot g = some d') : d.sameBut d' := by
  by_cases hg : g = t
  · subst hg
    exact h.descriptor d d' hd hd'
  · exact State.sameBut_of_slot_eq (h.otherSlots g hg) hd hd'

/-! ### What meets the frame -/

theorem touchesOnly_of_same_slots {t : Handle} {s s' : State} (hslots : s'.slots = s.slots)
    (hhost : s'.hostMem = s.hostMem) (hport : s'.port = s.port) : TouchesOnly t s s' where
  slotCount := by rw [hslots]
  otherSlots g _ := State.slot_congr hslots g
  descriptor _ _ := State.sameBut_of_slot_eq (State.slot_congr hslots t)
  host a _ := by rw [hhost]
  port := hport

/-- Filling an Empty slot or emptying one meets the frame: the slot does not stay Live. -/
theorem touchesOnly_of_setSlot {t : Handle} {s s' : State} {x : Option Drawbuffer}
    (hx : s.slot t = none ∨ x = none) (hslots : s'.slots = (s.setSlot t x).slots) (hhost : s'.hostMem = s.hostMem)
    (hport : s'.port = s.port) : TouchesOnly t s s' where
  slotCount := by rw [hslots, State.length_setSlot]
  otherSlots g hg := (State.slot_congr hslots g).trans (State.slot_setSlot_other s x hg)
  descriptor d d' hd hd' := by
    rw [State.slot_congr hslots t, State.slot_setSlot_same x (State.lt_of_slot hd)] at hd'
    rcases hx with hnone | hnone
    · cases hnone.symm.trans hd
    · cases hnone.symm.trans hd'
  host a _ := by rw [hhost]
  port := hport

/-- A descriptor that is Borrowed after a write was so before. -/
theorem Drawbuffer.sameBut.borrowed {d d' : Drawbuffer} (h : d.sameBut d') {base : HostAddr} {ctx : Word}
    (hb : d'.backing = .borrowed base ctx) : d.backing = .borrowed base ctx := by
  obtain ⟨-, -, -, hk⟩ := h
  cases hd : d.backing <;> simp only [hd, hb] at hk
  · obtain ⟨mem, hmem⟩ := hk
    cases hmem
  · exact hk.symm

/-- A buffer that is Live after byte writes was so before, with the same descriptor but for the owned contents. -/
theorem ByteWrites.slot_before {t : Handle} {s s' : State} (hw : ByteWrites t s s') {d' : Drawbuffer}
    (hd' : s'.slot t = some d') : ∃ d, s.slot t = some d ∧ d.sameBut d' := by
  obtain ⟨-, -, -, -, -, -, hnone, hdesc⟩ := hw.frame
  cases hs : s.slot t with
  | none => cases (hnone hs).symm.trans hd'
  | some d =>
    obtain ⟨d₁, hd₁, hsame⟩ := hdesc d hs
    obtain rfl : d₁ = d' := Option.some.inj (hd₁.symm.trans hd')
    exact ⟨d, rfl, hsame⟩

/-- Byte writes do not move the region of their target. -/
theorem ByteWrites.outsideRegion {t : Handle} {s s' : State} (hw : ByteWrites t s s') {a : Nat}
    (ha : s.outsideRegion t a) : s'.outsideRegion t a := by
  intro d' base ctx hd' hb'
  obtain ⟨d, hd, hsame⟩ := hw.slot_before hd'
  rw [hsame.byteLength_eq]
  exact ha d base ctx hd (hsame.borrowed hb')

/-- Byte writes leave host memory alone outside the region of their target. -/
theorem ByteWrites.hostMem_outside {t : Handle} {s s' : State} (hw : ByteWrites t s s') {a : Nat}
    (ha : s.outsideRegion t a) : s'.hostMem.read a = s.hostMem.read a := by
  induction hw with
  | refl => rfl
  | @write s₁ hw off v ih =>
    refine (s₁.hostMem_writeByte t off v a fun d base ctx hd hb hoff => ?_).trans ih
    have hout := hw.outsideRegion ha d base ctx hd hb
    omega

theorem ByteWrites.touchesOnly {t : Handle} {s s' : State} (hw : ByteWrites t s s') : TouchesOnly t s s' := by
  obtain ⟨-, hport, -, -, hcount, hother, -⟩ := hw.frame
  refine ⟨hcount, hother, fun d d' hd hd' => ?_, fun _ => hw.hostMem_outside, hport⟩
  obtain ⟨d₁, hd₁, hsame⟩ := hw.slot_before hd'
  obtain rfl : d₁ = d := Option.some.inj (hd₁.symm.trans hd)
  exact hsame

theorem State.slot_eq_none_of_empty {s : State} {t : Handle} (h : s.slots[t.toNat]? = some none) : s.slot t = none := by
  simp [State.slot, h]

/-! ### The frame of every effect -/

theorem Effect.touchesOnly {i : Instr} {s s' : State} (he : Effect i s s') : TouchesOnly i.target s s' := by
  cases he with
  | badHandle | error | answer | denied => exact touchesOnly_of_same_slots rfl rfl rfl
  | write _ _ hw => exact hw.touchesOnly.respond _
  | new hempty | wrap hempty => exact touchesOnly_of_setSlot (.inl (State.slot_eq_none_of_empty hempty)) rfl rfl rfl
  | close hi | teardown hi => subst hi; exact touchesOnly_of_setSlot (.inr rfl) rfl rfl rfl

/-- Only a failed handle check writes FAULT (R328). -/
theorem Effect.fault_eq {i : Instr} {s s' : State} (he : Effect i s s') (hrule : s.handleRule i.header) :
    s'.fault = s.fault := by
  cases he with
  | badHandle hbad => exact absurd hrule hbad
  | write _ _ hw =>
    obtain ⟨hfault, -⟩ := hw.frame
    exact hfault
  | error | answer | denied | new | wrap | close | teardown => rfl

/-! ### The obligation -/

/-- Settles O18: every next state of a command is an effect, and each effect meets the frame. -/
theorem commandsTouchOnlyTheirTarget : Obligations.CommandsTouchOnlyTheirTarget := by
  intro i s s' h
  have heff := exec_effect h
  have hframe := heff.touchesOnly
  exact ⟨hframe.slotCount, hframe.otherSlots, fun _ _ _ => hframe.sameBut, hframe.host, hframe.port, heff.fault_eq⟩

end Sys2Proof.Machine

/-! ## Proofs of the encoding's family: round trips, headers, what a step reads, and what a command sends

A header word decodes exactly when it encodes a header whose unused handle fields are 0 (`decodeHeader_eq_some`); a
command's argument words are read back as the command, and nothing else is read (`Op.assemble_args`,
`Op.assemble_eq_some`). From these come the round trips, the table of legal headers, and what a step does with the words
at the port. -/

namespace Sys2Proof

open Sys2Proof.Machine

/-! ### Header words -/

/-- A header word is known by its fields (R91). -/
theorem eq_encodeHeader {hdr : Word} {hd : Header} (hopc : hd.op.opc = hdr.extractLsb' 0 8)
    (hmode : hd.op.mode = hdr.extractLsb' 8 4) (hrsv : hdr.extractLsb' 12 4 = 0) (ht : hd.t = hdr.extractLsb' 16 8)
    (hs : hd.s = hdr.extractLsb' 24 8) : hdr = encodeHeader hd := by
  unfold encodeHeader
  rw [hopc, hmode, ht, hs, ← hrsv]
  simp only [BitVec.extractLsb'_append_extractLsb'_eq_extractLsb', BitVec.extractLsb'_eq_self]

/-- Header decoding accepts the encodings of headers whose unused handle fields are 0, and nothing else (R100). -/
theorem decodeHeader_eq_some {hdr : Word} {hd : Header} :
    decodeHeader hdr = some hd ↔
      hdr = encodeHeader hd ∧ (hd.op.usesT = false → hd.t = 0) ∧ (hd.op.usesS = false → hd.s = 0) := by
  constructor
  · intro h
    simp only [decodeHeader] at h
    split at h
    · cases h
    · next op hop =>
      obtain ⟨hopc, hmode⟩ := Op.code_of_ofCode? hop
      simp only [Option.ite_none_left_eq_some, Option.some.injEq, not_not] at h
      obtain ⟨hrsv, ht, hs, rfl⟩ := h
      exact ⟨eq_encodeHeader hopc hmode hrsv rfl rfl, by simpa using ht, by simpa using hs⟩
  · rintro ⟨rfl, ht, hs⟩
    exact decodeHeader_encodeHeader hd.op hd.t hd.s ht hs

/-- An encoded header is the sum of its shifted fields (R91). -/
theorem encodeHeader_eq_headerWord (hd : Header) :
    encodeHeader hd = headerWord hd.op.opc.toNat hd.op.mode.toNat hd.t hd.s := by
  refine BitVec.eq_of_toNat_eq ?_
  have hbound := (encodeHeader hd).isLt
  simp only [encodeHeader, headerWord, BitVec.toNat_append, ← Nat.shiftLeft_add_eq_or_of_lt (BitVec.isLt _)] at hbound ⊢
  simp only [Nat.shiftLeft_eq, BitVec.toNat_ofNat, BitVec.ofNat_eq_ofNat, Nat.zero_mod] at hbound ⊢
  omega

/-- The words of a command: its header word, field by field, and its arguments (R91, R92). -/
theorem encode_eq_headerWord (i : Instr) :
    encode i = headerWord i.op.opc.toNat i.op.mode.toNat i.target i.source :: i.args :=
  congrArg (· :: i.args) (encodeHeader_eq_headerWord i.header)

/-! ### The table of legal headers -/

/-- Every row of the map has an opcode of R99 with a MODE that R98 allows it. -/
theorem Op.code_legal (op : Op) : mappedOpcode op.opc.toNat ∧ legalMode op.opc.toNat op.mode.toNat := by
  cases op <;> decide

/-- Every opcode of R99 with a MODE that R98 allows it is a row of the map. -/
theorem Op.exists_of_legal {opc mode : Nat} (hopc : mappedOpcode opc) (hmode : legalMode opc mode) :
    ∃ op : Op, op.opc.toNat = opc ∧ op.mode.toNat = mode := by
  have rows : ∀ (opc : Fin 0x51) (mode : Fin 4), mappedOpcode opc ∧ legalMode opc mode →
      ∃ op ∈ Op.all, op.opc.toNat = opc ∧ op.mode.toNat = mode := by decide
  have hopcLt : opc < 0x51 := by
    unfold mappedOpcode at hopc
    omega
  have hmodeLt : mode < 4 := by
    unfold legalMode at hmode
    split_ifs at hmode <;> omega
  obtain ⟨op, -, hop⟩ := rows ⟨opc, hopcLt⟩ ⟨mode, hmodeLt⟩ ⟨hopc, hmode⟩
  exact ⟨op, hop⟩

theorem Op.usesT_eq_false {op : Op} : op.usesT = false ↔ opcodeWithoutT op.opc.toNat := by
  cases op <;> decide

theorem Op.usesS_eq_false {op : Op} : op.usesS = false ↔ op.opc.toNat ≠ 0x50 := by
  cases op <;> decide

/-- The row and the handles of an accepted header are those of the word's fields, and RSV is 0 (R91, R100). -/
theorem decodeHeader_fields {hdr : Word} {hd : Header} (h : decodeHeader hdr = some hd) :
    hd.op.opc = hdr.extractLsb' 0 8 ∧ hd.op.mode = hdr.extractLsb' 8 4 ∧ hdr.extractLsb' 12 4 = 0 ∧
      hd.t = hdr.extractLsb' 16 8 ∧ hd.s = hdr.extractLsb' 24 8 := by
  obtain ⟨rfl, -, -⟩ := decodeHeader_eq_some.mp h
  obtain ⟨hopc, hmode, hrsv, ht, hs⟩ := header_fields hd.s hd.t hd.op.mode hd.op.opc
  exact ⟨hopc.symm, hmode.symm, hrsv, ht.symm, hs.symm⟩

theorem legalHeader_iff {hdr : Word} : legalHeader hdr ↔ ∃ hd, decodeHeader hdr = some hd := by
  constructor
  · rintro ⟨hmapped, hrsv, hlegal, ht, hs⟩
    obtain ⟨op, hopc, hmode⟩ := Op.exists_of_legal hmapped hlegal
    rw [← hopc] at ht hs
    exact ⟨⟨op, _, _⟩, decodeHeader_eq_some.mpr
      ⟨eq_encodeHeader (BitVec.eq_of_toNat_eq hopc) (BitVec.eq_of_toNat_eq hmode) hrsv rfl rfl,
        fun h => ht (Op.usesT_eq_false.mp h), fun h => hs (Op.usesS_eq_false.mp h)⟩⟩
  · rintro ⟨hd, h⟩
    obtain ⟨-, ht, hs⟩ := decodeHeader_eq_some.mp h
    obtain ⟨hopc, hmode, hrsv, htField, hsField⟩ := decodeHeader_fields h
    obtain ⟨hmapped, hlegal⟩ := hd.op.code_legal
    rw [Op.usesT_eq_false] at ht
    rw [Op.usesS_eq_false] at hs
    rw [hopc] at hmapped hlegal ht hs
    rw [hmode] at hlegal
    exact ⟨hmapped, hrsv, hlegal, htField ▸ ht, hsField ▸ hs⟩

/-! ### Argument words and whole commands -/

/-- A command's argument words are read back as the command, whatever follows them (R92, R93). -/
theorem Op.assemble_args {i : Instr} (h : i.wellFormed = true) (rest : List Word) :
    i.op.assemble i.target i.source (i.args ++ rest) = some (i, rest) := by
  cases i with
  | load t n data =>
    have hlen : dataWordCount n.toNat = data.length := (beq_iff_eq.mp h).symm
    simp [Instr.op, Instr.args, Instr.target, Op.assemble, hlen]
  | _ => rfl

/-- What is read from argument words is a well-formed command with the row and the handles of the header, and its words
are those that were read. -/
theorem Op.assemble_eq_some {op : Op} {t s : Handle} {ws rest : List Word} {i : Instr}
    (ht : op.usesT = false → t = 0) (hs : op.usesS = false → s = 0) (h : op.assemble t s ws = some (i, rest)) :
    i.header = ⟨op, t, s⟩ ∧ i.wellFormed = true ∧ i.args ++ rest = ws := by
  unfold Op.assemble at h
  split at h
  case h_27 n ws =>
    -- LOAD, whose data words are counted
    split at h
    · next hlen =>
      cases h
      exact ⟨by rw [hs rfl]; rfl, by simp [Instr.wellFormed, hlen], by simp [Instr.args]⟩
    · cases h
  all_goals cases h
  all_goals exact ⟨by simp_all [Instr.header, Instr.op, Instr.target, Instr.source, Op.usesT, Op.usesS], rfl, rfl⟩

/-- The decoder reads a command exactly from its encoding (R91, R92, R93, R100). -/
theorem decode_eq_ok {ws rest : List Word} {i : Instr} :
    decode ws = .ok (i, rest) ↔ i.wellFormed = true ∧ encode i ++ rest = ws := by
  constructor
  · intro h
    unfold decode at h
    split at h
    · cases h
    · next hdr args =>
      split at h
      · cases h
      · next hd hhd =>
        obtain ⟨rfl, ht, hs⟩ := decodeHeader_eq_some.mp hhd
        split at h
        · cases h
        · next hasm =>
          cases h
          obtain ⟨hheader, hwf, rfl⟩ := Op.assemble_eq_some ht hs hasm
          exact ⟨hwf, by rw [encode, hheader]; rfl⟩
  · rintro ⟨hwf, rfl⟩
    have hasm : i.header.op.assemble i.header.t i.header.s (i.args ++ rest) = some (i, rest) :=
      Op.assemble_args hwf rest
    simp only [encode, List.cons_append, decode, decodeHeader_header, hasm]

end Sys2Proof

namespace Sys2Proof.Machine

/-! ### The handle checks -/

theorem State.slotEmpty_iff {s : State} {h : Handle} : s.slotEmpty h = true ↔ s.slots[h.toNat]? = some none :=
  beq_iff_eq

theorem State.slotExists_iff {s : State} {h : Handle} : s.slotExists h = true ↔ h.toNat < s.slots.length :=
  decide_eq_true_iff

theorem State.slotLive_iff {s : State} {h : Handle} : s.slotLive h = true ↔ s.liveAt h := by
  simp only [State.slotLive, State.liveAt, Option.isSome_iff_exists, State.slot_eq_some]

/-- The engine's check of a header's handles is the table of R328. -/
theorem State.handlesOk_iff {s : State} {hd : Header} : s.handlesOk hd = true ↔ s.handleRule hd := by
  obtain ⟨op, t, src⟩ := hd
  cases op with
  | pxDecode | pxEncode | fmtBpp | fmtSize | fmtName | fmtId | blend => exact iff_of_true rfl trivial
  | new | wrap => exact State.slotEmpty_iff
  | close => exact State.slotExists_iff
  | composeOp | composeSkip | composeBlend =>
    exact Bool.and_eq_true_iff.trans (and_congr State.slotLive_iff State.slotLive_iff)
  | _ => exact State.slotLive_iff

/-! ### What a step does with the words at the port -/

section
variable {s : State} {hdr : Word} {rest : List Word}

theorem step_illegalCommand (hf : s.faultCause = 0) (hp : s.port = hdr :: rest) (hnone : decodeHeader hdr = none) :
    step s = .next ((s.setPort rest).takeFault .illegalCommand) := by
  simp [step, State.fetch, hp, hf, hnone]

theorem step_badHandle (hf : s.faultCause = 0) (hp : s.port = hdr :: rest) {hd : Header}
    (hhd : decodeHeader hdr = some hd) (hbad : ¬ s.handleRule hd) :
    step s = .next ((s.setPort rest).takeFault .badHandle) := by
  rw [← State.handlesOk_iff] at hbad
  simp [step, State.fetch, hp, hf, hhd, hbad]

theorem step_command (hf : s.faultCause = 0) {i : Instr} (hdec : decode s.port = .ok (i, rest))
    (hrule : s.handleRule i.header) : step s = exec i (s.setPort rest) := by
  obtain ⟨-, hwords⟩ := decode_eq_ok.mp hdec
  have hp : s.port = encodeHeader i.header :: (i.args ++ rest) := hwords.symm
  have hfetch : s.fetch = .command i rest := by
    rw [hp] at hdec
    simp [State.fetch, hp, hf, decodeHeader_header, State.handlesOk_iff.mpr hrule, hdec]
  simp only [step, hfetch]

end

/-! ### The words a command sends -/

/-- The notification word of a teardown: 0x40 with the handle in [23:16] (R94, R341). -/
theorem teardownWord_eq (t : Handle) : teardownWord t = 0x00000040 ||| t.setWidth 32 <<< 16 := by
  unfold teardownWord
  ext k hk
  simp only [BitVec.getElem_append, BitVec.getElem_or, BitVec.getElem_shiftLeft]
  interval_cases k <;> simp

/-- The status word of an error is its code, 1 to 6 (R94, R321). -/
theorem statusError_bounds (e : ErrorCode) : 1 ≤ (statusError e).toNat ∧ (statusError e).toNat ≤ 6 := by
  cases e <;> decide

/-! ### Packed words -/

theorem length_packWords (bs : List Byte) : (packWords bs).length = dataWordCount bs.length := by
  unfold dataWordCount
  induction bs using packWords.induct with
  | case1 | case2 | case3 | case4 => simp [packWords]
  | case5 b0 b1 b2 b3 bs ih =>
    simp only [packWords, List.length_cons, ih]
    omega

/-- A word put together from four bytes has these bytes. -/
theorem wordBytes_append (b3 b2 b1 b0 : Byte) : wordBytes (b3 ++ b2 ++ b1 ++ b0) = [b0, b1, b2, b3] := by
  change [(b3 ++ b2 ++ b1 ++ b0).extractLsb' 0 8, (b3 ++ b2 ++ b1 ++ b0).extractLsb' 8 8,
    (b3 ++ b2 ++ b1 ++ b0).extractLsb' 16 8, (b3 ++ b2 ++ b1 ++ b0).extractLsb' 24 8] = _
  simp only [BitVec.extractLsb'_append_eq_of_le, BitVec.extractLsb'_append_eq_right, Nat.le_refl, Nat.reduceLeDiff,
    Nat.reduceSub, Nat.sub_self, BitVec.extractLsb'_eq_self]

/-- Byte k of a word list is byte k mod 4 of word k / 4 (R93). -/
theorem wordByte_getD (ws : List Word) (k : Nat) :
    wordByte (ws.getD (k / 4) 0) (k % 4) = (unpackWords ws).getD k 0 := by
  induction ws generalizing k with
  | nil => simp [unpackWords, wordByte]
  | cons w ws ih =>
    match k with
    | 0 | 1 | 2 | 3 => rfl
    | k + 4 => simpa [unpackWords, wordBytes] using ih k

/-- Packed bytes taken apart again are the bytes and zeros after them (R95). -/
theorem unpackWords_packWords (bs : List Byte) : ∃ n, unpackWords (packWords bs) = bs ++ List.replicate n 0 := by
  induction bs using packWords.induct with
  | case1 => exact ⟨0, rfl⟩
  | case2 b0 => exact ⟨3, wordBytes_append 0 0 0 b0⟩
  | case3 b0 b1 => exact ⟨2, wordBytes_append 0 0 b1 b0⟩
  | case4 b0 b1 b2 => exact ⟨1, wordBytes_append 0 b2 b1 b0⟩
  | case5 b0 b1 b2 b3 bs ih =>
    obtain ⟨n, hn⟩ := ih
    exact ⟨n, congrArg₂ (· ++ ·) (wordBytes_append b3 b2 b1 b0) hn⟩

/-- Byte k of the packed words is byte k of the list, and 0 past its end (R95). -/
theorem wordByte_packWords (bs : List Byte) (k : Nat) :
    wordByte ((packWords bs).getD (k / 4) 0) (k % 4) = bs.getD k 0 := by
  obtain ⟨n, hn⟩ := unpackWords_packWords bs
  rw [wordByte_getD, hn]
  by_cases hk : k < bs.length
  · rw [List.getD_append _ _ _ _ hk]
  · rw [List.getD_append_right _ _ _ _ (not_lt.mp hk), List.getD_eq_default _ _ (not_lt.mp hk)]
    exact List.getElem?_getD_replicate_default_eq ..

@[simp] theorem State.length_memRead (s : State) (t : Handle) (off n : Nat) : (s.memRead t off n).length = n := by
  simp [State.memRead]

theorem State.memRead_getD (s : State) (t : Handle) (off n k : Nat) :
    (s.memRead t off n).getD k 0 = if k < n then s.readByte t (off + k) else 0 := by
  unfold State.memRead
  split <;> simp [*]

/-! ### The obligations -/

/-- Settles O1: the decoder reads every command from its encoding. -/
theorem decodeOfEncode : Obligations.DecodeOfEncode :=
  fun _ _ hwf => decode_eq_ok.mpr ⟨hwf, rfl⟩

/-- Settles O2: the decoder reads a command from nothing but its encoding. -/
theorem encodeOfDecode : Obligations.EncodeOfDecode :=
  fun _ _ _ h => decode_eq_ok.mp h

/-- Settles O17: each effect of a command sends the words of one outcome. -/
theorem everyCommandAnswersOnce : Obligations.EveryCommandAnswersOnce := by
  intro i s s' h
  cases exec_effect h with
  | badHandle => exact ⟨_, rfl, .inl rfl⟩
  | error e =>
    obtain ⟨hmin, hmax⟩ := statusError_bounds e
    exact ⟨_, rfl, .inr (.inl ⟨_, hmin, hmax, rfl⟩)⟩
  | denied =>
    obtain ⟨hmin, hmax⟩ := statusError_bounds .allocationFailure
    exact ⟨_, rfl, .inr (.inl ⟨_, hmin, hmax, rfl⟩)⟩
  | answer results => exact ⟨_, rfl, .inr (.inr (.inl ⟨results, rfl⟩))⟩
  | write _ _ hw =>
    obtain ⟨-, -, hresp, -⟩ := hw.frame
    exact ⟨_, congrArg (· ++ [statusOk]) hresp, .inr (.inr (.inl ⟨[], rfl⟩))⟩
  | new | wrap | close => exact ⟨_, rfl, .inr (.inr (.inl ⟨[], rfl⟩))⟩
  | @teardown t _ _ ctx hi =>
    exact ⟨_, List.append_assoc .., .inr (.inr (.inr ⟨t, ctx, hi, congrArg (· :: [ctx, 0]) (teardownWord_eq t)⟩))⟩

/-- Settles O5: the legal headers are those the decoder accepts, and an accepted header's fields are the word's. -/
theorem headerAcceptedExactlyByTheMap : Obligations.HeaderAcceptedExactlyByTheMap := by
  refine fun hdr => ⟨Option.isSome_iff_exists.trans legalHeader_iff.symm, fun hd h => ?_⟩
  obtain ⟨hopc, hmode, -, ht, hs⟩ := decodeHeader_fields h
  exact ⟨hopc, hmode, ht, hs⟩

/-- Settles O7: an illegal header is one that does not decode, and the engine's handle check is R328's table. -/
theorem headerFaults : Obligations.HeaderFaults := by
  refine fun s hdr rest hp hf => ⟨fun hillegal => ?_, fun _ => step_badHandle hf hp⟩
  rw [legalHeader_iff, ← Option.isSome_iff_exists, Option.not_isSome_iff_eq_none] at hillegal
  exact step_illegalCommand hf hp hillegal

/-- Settles O38: the packed words of the region read. -/
theorem dumpReturnsTheRegion : Obligations.DumpReturnsTheRegion := by
  intro s t d hs ha
  refine ⟨packWords (s.memRead t 0 d.byteLength), ?_, ?_, fun k _ => ?_⟩
  · exact (withLive_pass hs _).trans (onMemory_pass ha _)
  · rw [length_packWords, State.length_memRead, dataWordCount]
  · refine (wordByte_packWords _ k).trans ?_
    rw [State.memRead_getD, Nat.zero_add]

/-- Settles O3: the header word of every row, field by field. -/
theorem encodingsFollowTheMap : Obligations.EncodingsFollowTheMap := by
  unfold Obligations.EncodingsFollowTheMap
  intros
  and_intros <;> exact encode_eq_headerWord _

/-- Settles O4: each word list decoded. -/
theorem specWordsDecode : Obligations.SpecWordsDecode := by
  unfold Obligations.SpecWordsDecode
  and_intros <;> decide

/-- Settles O6: the words that decode to a command are its encoding, so its header decodes and passes. -/
theorem stepRunsTheDecodedCommand : Obligations.StepRunsTheDecodedCommand :=
  fun _ _ _ hf => step_command hf

end Sys2Proof.Machine

/-! ## Proofs of the codec's family: pixel formats, the format registry and its commands

A packed value and a pixel are both rows of bit fields. The round trips take fields out of such rows and put them back
together; the arithmetic statements read every row as a number (`toNat_append_add`, `toNat_extractLsb'_div`). The
registry's commands follow from one `↔` each for the lookup of an id and of a name. -/

namespace Sys2Proof.Machine

/-! ### Rows of bit fields -/

theorem toNat_append_add {m n : ℕ} (x : BitVec m) (y : BitVec n) : (x ++ y).toNat = x.toNat * 2 ^ n + y.toNat := by
  rw [BitVec.toNat_append, ← Nat.shiftLeft_add_eq_or_of_lt y.isLt, Nat.shiftLeft_eq]

theorem toNat_extractLsb'_div {w : ℕ} (x : BitVec w) (start len : ℕ) :
    (x.extractLsb' start len).toNat = x.toNat / 2 ^ start % 2 ^ len := by
  rw [BitVec.extractLsb'_toNat, Nat.shiftRight_eq_div_pow]

theorem toNat_append_zero {m k : ℕ} (x : BitVec m) : (x ++ (0 : BitVec k)).toNat = x.toNat * 2 ^ k := by
  rw [toNat_append_add, BitVec.ofNat_eq_ofNat, BitVec.toNat_ofNat, Nat.zero_mod, Nat.add_zero]

theorem toNat_append_zero_mod {m k : ℕ} (x : BitVec m) : (x ++ (0 : BitVec k)).toNat % 2 ^ k = 0 := by
  rw [toNat_append_zero, Nat.mul_mod_left]

/-- Cutting k bits off and shifting zeros back in changes nothing where these bits are 0. -/
theorem toNat_extractLsb'_append_zero {w m k : ℕ} {x : BitVec w} (hw : w = m + k) (h : x.toNat % 2 ^ k = 0) :
    (x.extractLsb' k m ++ (0 : BitVec k)).toNat = x.toNat := by
  have htop : x.toNat / 2 ^ k < 2 ^ m := by
    rw [Nat.div_lt_iff_lt_mul (Nat.two_pow_pos k), ← pow_add, ← hw]
    exact x.isLt
  rw [toNat_append_zero, toNat_extractLsb'_div, Nat.mod_eq_of_lt htop,
    Nat.div_mul_cancel (Nat.dvd_of_mod_eq_zero h)]

/-- A word below 2^n is its low n bits. -/
theorem setWidth_extractLsb'_zero {P : Word} {n : ℕ} (h : P.toNat < 2 ^ n) : (P.extractLsb' 0 n).setWidth 32 = P := by
  refine BitVec.eq_of_toNat_eq ?_
  rw [BitVec.toNat_setWidth, BitVec.extractLsb'_toNat, Nat.shiftRight_zero, Nat.mod_eq_of_lt h, Nat.mod_eq_of_lt P.isLt]

theorem toNat_setWidth_lt {n : ℕ} (hn : n ≤ 32) (x : BitVec n) : (x.setWidth 32).toNat < 2 ^ n := by
  rw [BitVec.toNat_setWidth_of_le hn]
  exact x.isLt

/-! ### The channels of a pixel -/

section
variable (r g b a : Byte)

@[simp] theorem pixR_pix : pixR (pix r g b a) = r := by
  simp only [pixR, pix, BitVec.extractLsb'_append_eq_of_le, Nat.reduceLeDiff, Nat.reduceSub, BitVec.extractLsb'_eq_self]

@[simp] theorem pixG_pix : pixG (pix r g b a) = g := by
  simp only [pixG, pix, BitVec.extractLsb'_append_eq_of_le, Nat.reduceLeDiff, Nat.reduceSub,
    BitVec.extractLsb'_append_eq_right]

@[simp] theorem pixB_pix : pixB (pix r g b a) = b := by
  simp only [pixB, pix, BitVec.extractLsb'_append_eq_of_le, le_refl, Nat.sub_self, BitVec.extractLsb'_append_eq_right]

@[simp] theorem pixA_pix : pixA (pix r g b a) = a := BitVec.extractLsb'_append_eq_right

theorem toNat_pix : (pix r g b a).toNat = r.toNat * 2 ^ 24 + g.toNat * 2 ^ 16 + b.toNat * 2 ^ 8 + a.toNat := by
  simp only [pix, toNat_append_add]
  omega

end

@[simp] theorem pix_channels (p : Pixel) : pix (pixR p) (pixG p) (pixB p) (pixA p) = p := by
  simp only [pix, pixR, pixG, pixB, pixA, BitVec.extractLsb'_append_extractLsb'_eq_extractLsb',
    BitVec.extractLsb'_eq_self]

/-- A pixel is known by the numbers of its channels (R15). -/
theorem pix_eq_of_toNat {p : Pixel} {r g b a : Byte} (hr : r.toNat = (pixR p).toNat) (hg : g.toNat = (pixG p).toNat)
    (hb : b.toNat = (pixB p).toNat) (ha : a.toNat = (pixA p).toNat) : pix r g b a = p := by
  rw [BitVec.eq_of_toNat_eq hr, BitVec.eq_of_toNat_eq hg, BitVec.eq_of_toNat_eq hb, BitVec.eq_of_toNat_eq ha,
    pix_channels]

/-! ### The codec -/

theorem dec_mono1 (P : Word) : dec .mono1 P = if P.toNat % 2 = 0 then 0x00000000 else 0xFFFFFFFF := by
  have hbit : P.extractLsb' 0 1 = 0 ↔ P.toNat % 2 = 0 := by
    rw [← BitVec.toNat_inj, BitVec.extractLsb'_toNat, Nat.shiftRight_zero]
    rfl
  simp only [dec, hbit]
  rfl

/-- Every packed value is below 2^bpp (R131). -/
theorem enc_lt (f : Format) (p : Pixel) : (enc f p).toNat < 2 ^ f.bpp := by
  cases f with
  | rgba8888 | argb8888 | abgr8888 | bgra8888 => exact BitVec.isLt _
  | _ => exact toNat_setWidth_lt (by decide) _

/-- The fields that dec takes from a packed value are those that enc puts there, in the same order (R141). -/
theorem enc_dec {f : Format} {P : Word} (h : P.toNat < 2 ^ f.bpp) : enc f (dec f P) = P := by
  cases f with
  | mono1 =>
    obtain rfl | rfl : P = 0 ∨ P = 1 := by
      simp only [Format.bpp] at h
      bv_omega
    · rfl
    · rfl
  | rgba8888 | argb8888 | abgr8888 | bgra8888 =>
    simp only [enc, dec, wordByte, pixR_pix, pixG_pix, pixB_pix, pixA_pix,
      BitVec.extractLsb'_append_extractLsb'_eq_extractLsb']
    exact BitVec.extractLsb'_eq_self
  | _ =>
    simp only [enc, dec, wordByte, pixR_pix, pixG_pix, pixB_pix, BitVec.extractLsb'_append_eq_left,
      BitVec.extractLsb'_append_extractLsb'_eq_extractLsb']
    exact setWidth_extractLsb'_zero h

/-- A decoded pixel meets the channel conditions of R140. -/
theorem representable_dec (f : Format) (P : Word) : representable f (dec f P) := by
  cases f with
  | mono1 =>
    rw [dec_mono1]
    split
    · exact .inl ⟨rfl, rfl, rfl, rfl⟩
    · exact .inr ⟨rfl, rfl, rfl, rfl⟩
  | gray8 => simp only [representable, dec, pixR_pix, pixG_pix, pixB_pix, pixA_pix, and_self]
  | rgb332 | rgb565 | bgr565 =>
    simp only [representable, dec, pixR_pix, pixG_pix, pixB_pix, pixA_pix]
    exact ⟨rfl, toNat_append_zero_mod _, toNat_append_zero_mod _, toNat_append_zero_mod _⟩
  | rgb888 | bgr888 => exact congrArg BitVec.toNat (pixA_pix ..)
  | rgba8888 | argb8888 | abgr8888 | bgra8888 => trivial

/-- Encoding and decoding loses only the bits that R140 has 0 (or, for alpha, 255) in a representable pixel. -/
theorem dec_enc {f : Format} {p : Pixel} (h : representable f p) : dec f (enc f p) = p := by
  cases f with
  | mono1 =>
    obtain ⟨hr, hg, hb, ha⟩ | ⟨hr, hg, hb, ha⟩ := h
    · obtain rfl : pix 0 0 0 0 = p := pix_eq_of_toNat hr.symm hg.symm hb.symm ha.symm
      rfl
    · obtain rfl : pix 255 255 255 255 = p := pix_eq_of_toNat hr.symm hg.symm hb.symm ha.symm
      rfl
  | gray8 =>
    obtain ⟨hg, hb, ha⟩ := h
    simp only [dec, enc, BitVec.extractLsb'_setWidth_of_le, Nat.reduceLeDiff, BitVec.extractLsb'_eq_self]
    exact pix_eq_of_toNat rfl hg.symm hb.symm ha.symm
  | rgb332 | rgb565 | bgr565 =>
    obtain ⟨ha, hr, hg, hb⟩ := h
    simp only [enc, dec, BitVec.extractLsb'_setWidth_of_le, BitVec.extractLsb'_append_eq_of_le,
      BitVec.extractLsb'_append_eq_right, BitVec.extractLsb'_eq_self, Nat.reduceLeDiff, Nat.reduceSub, Nat.sub_self]
    exact pix_eq_of_toNat (toNat_extractLsb'_append_zero rfl hr) (toNat_extractLsb'_append_zero rfl hg)
      (toNat_extractLsb'_append_zero rfl hb) ha.symm
  | rgb888 | bgr888 =>
    simp only [enc, dec, wordByte, BitVec.extractLsb'_setWidth_of_le, BitVec.extractLsb'_append_eq_of_le,
      BitVec.extractLsb'_append_eq_right, BitVec.extractLsb'_eq_self, Nat.reduceLeDiff, Nat.reduceSub, Nat.sub_self,
      Nat.reduceMul]
    exact pix_eq_of_toNat rfl rfl rfl h.symm
  | rgba8888 | argb8888 | abgr8888 | bgra8888 =>
    simp only [enc, dec, wordByte, BitVec.extractLsb'_append_eq_of_le,
      BitVec.extractLsb'_append_eq_right, BitVec.extractLsb'_eq_self, Nat.reduceLeDiff, Nat.reduceSub, Nat.sub_self,
      Nat.reduceMul, pix_channels]

/-! ### The registry -/

theorem Format.bpp_le (f : Format) : f.bpp ≤ 32 := by
  cases f <;> decide

theorem Format.mem_all (f : Format) : f ∈ Format.all := by
  cases f <;> decide

/-- An id names a format exactly when it is that format's id (R130). -/
theorem Format.ofId?_eq_some {id : ℕ} {f : Format} : Format.ofId? id = some f ↔ f.id = id := by
  have hids : Format.all.map Format.id = List.range 11 := by decide
  constructor
  · intro h
    have hid : (Format.all.map Format.id)[id]? = some f.id := by
      rw [List.getElem?_map, ← Format.ofId?, h, Option.map_some]
    rw [hids] at hid
    obtain ⟨_, hget⟩ := List.getElem?_eq_some_iff.mp hid
    rw [← hget, List.getElem_range]
  · rintro rfl
    cases f <;> rfl

theorem Format.ofId?_eq_none {id : ℕ} (h : 10 < id) : Format.ofId? id = none :=
  List.getElem?_eq_none h

theorem Format.nameWords_injective : Function.Injective Format.nameWords := by
  have hnodup : (Format.all.map Format.nameWords).Nodup := by decide
  exact fun f g h => List.inj_on_of_nodup_map hnodup f.mem_all g.mem_all h

/-- The search of FMT_ID finds a format exactly when the words are its name (R165). -/
theorem Format.find?_nameWords_eq_some {ws : List Word} {f : Format} :
    Format.all.find? (fun f => f.nameWords == ws) = some f ↔ f.nameWords = ws := by
  constructor
  · intro h
    simpa using List.find?_some h
  · rintro rfl
    cases hfind : Format.all.find? fun g => g.nameWords == f.nameWords with
    | none => exact absurd (beq_self_eq_true _) (List.find?_eq_none.mp hfind f f.mem_all)
    | some g =>
      have hname : g.nameWords = f.nameWords := by simpa using List.find?_some hfind
      rw [Format.nameWords_injective hname]

section
variable {fmt : U32}

theorem withFormat_id {f : Format} (h : f.id = fmt.toNat) (s : State) (k : Format → Result) :
    withFormat fmt s k = k f :=
  withFormat_pass (Format.ofId?_eq_some.mpr h) s k

theorem withFormat_unknown (h : 10 < fmt.toNat) (s : State) (k : Format → Result) :
    withFormat fmt s k = .next (s.respond [0x00000002]) :=
  withFormat_fail (Format.ofId?_eq_none h) s k

end

/-! ### Buffer sizes -/

theorem byteLength_eq_ceil (f : Format) (w h : ℕ) : (byteLength f w h : ℤ) = ⌈((w * h * f.bpp : ℤ) : ℚ) / 8⌉ := by
  have hceil := Rat.ceil_intCast_div_natCast (w * h * f.bpp) 8
  rw [Nat.cast_ofNat] at hceil
  rw [hceil, byteLength]
  push_cast
  omega

theorem byteLength_lt {w h : ℕ} (f : Format) (hw : w ≤ 2 ^ 31 - 1) (hh : h ≤ 2 ^ 31 - 1) :
    byteLength f w h < 2 ^ 64 := by
  have hbits : w * h * f.bpp ≤ (2 ^ 31 - 1) * (2 ^ 31 - 1) * 32 := Nat.mul_le_mul (Nat.mul_le_mul hw hh) f.bpp_le
  unfold byteLength
  omega

theorem toNat_two_words {n : ℕ} (h : n < 2 ^ 64) :
    (BitVec.ofNat 32 n).toNat + (BitVec.ofNat 32 (n / 2 ^ 32)).toNat * 2 ^ 32 = n := by
  rw [BitVec.toNat_ofNat, BitVec.toNat_ofNat]
  omega

/-! ### The obligations -/

/-- Settles O19: the fields taken from a packed value are put back where they were. -/
theorem packedRoundTrip : Obligations.PackedRoundTrip :=
  fun _ _ => enc_dec

/-- Settles O20: a representable pixel is decoded from its own encoding, and a decoded pixel is representable. -/
theorem representableRoundTrip : Obligations.RepresentableRoundTrip := by
  refine fun f p => ⟨⟨fun h => ⟨enc f p, enc_lt f p, dec_enc h⟩, ?_⟩, dec_enc, enc_lt f p⟩
  rintro ⟨P, -, rfl⟩
  exact representable_dec f P

/-- Settles O21: the alpha channel that dec puts together, format by format. -/
theorem decodedAlpha : Obligations.DecodedAlpha := by
  refine fun P => ⟨?_, pixA_pix .., ?_, pixA_pix .., pixA_pix .., pixA_pix .., pixA_pix ..⟩
  · rw [dec_mono1, BitVec.getLsbD, Nat.testBit_zero]
    obtain h | h := Nat.mod_two_eq_zero_or_one P.toNat <;> rw [h] <;> rfl
  · rintro f (rfl | rfl | rfl | rfl | rfl) <;> exact pixA_pix ..

/-- Settles O22: every encoder and decoder is a row of fields, and each row is read as a number; that a channel is below
256 keeps the fields apart. -/
theorem lossyCodecs : Obligations.LossyCodecs := by
  intro p P
  have hr := (pixR p).isLt
  have hg := (pixG p).isLt
  have hb := (pixB p).isLt
  refine ⟨⟨?_, dec_mono1 P⟩, ⟨?_, ?_⟩, ⟨?_, ?_⟩, ⟨?_, ?_⟩, ?_, ?_⟩ <;>
    simp only [enc, dec, toNat_pix, toNat_append_add, toNat_extractLsb'_div, BitVec.toNat_setWidth,
      BitVec.ofNat_eq_ofNat, BitVec.toNat_ofNat] <;> omega

/-- Settles O23: as O22, on rows of whole bytes. -/
theorem byteExactCodecs : Obligations.ByteExactCodecs := by
  intro p P
  have hr := (pixR p).isLt
  have hg := (pixG p).isLt
  have hb := (pixB p).isLt
  refine ⟨⟨?_, ?_⟩, ⟨?_, ?_⟩, ⟨?_, ?_⟩, ⟨?_, ?_⟩, ⟨?_, ?_⟩, ?_, ?_⟩ <;>
    simp only [enc, dec, wordByte, toNat_pix, toNat_append_add, toNat_extractLsb'_div, BitVec.toNat_setWidth,
      BitVec.ofNat_eq_ofNat, BitVec.toNat_ofNat] <;> omega

/-- Settles O26: the size in 64 bits is exact, because both dimensions are below 2^31. -/
theorem fmtSizeIsExact : Obligations.FmtSizeIsExact := by
  refine fun s fmt w h => ⟨fun hbad => ?_, fun hw hh => ⟨fun hfmt => ?_, fun f hf => ?_⟩⟩
  · simp only [exec, execFmtSize, withDimensions_fail (w := w) (h := h) hbad]
    rfl
  · simp only [exec, execFmtSize, withDimensions_pass (w := w) (h := h) hw hh, withFormat_unknown hfmt]
  · simp only [exec, execFmtSize, withDimensions_pass (w := w) (h := h) hw hh, withFormat_id hf]
    refine ⟨_, _, rfl, ?_⟩
    obtain ⟨-, hwmax⟩ := toNat_s32_bounds hw
    obtain ⟨-, hhmax⟩ := toNat_s32_bounds hh
    have hsize := byteLength_lt f hwmax hhmax
    rw [toNat_two_words hsize, byteLength_eq_ceil, s32, s32, Int.toNat_of_nonneg hw.le, Int.toNat_of_nonneg hh.le]

/-- Settles O27: the search finds the one format of that name. -/
theorem fmtIdMatchesAllTwelveBytes : Obligations.FmtIdMatchesAllTwelveBytes := by
  refine fun s n0 n1 n2 => ⟨fun f hf => ?_, fun hnone => ?_⟩
  · simp only [exec, execFmtId, Format.find?_nameWords_eq_some.mpr hf]
    rfl
  · have hfind : Format.all.find? (fun f => f.nameWords == [n0, n1, n2]) = none :=
      Option.eq_none_iff_forall_ne_some.mpr fun f hf => hnone f (Format.find?_nameWords_eq_some.mp hf)
    simp only [exec, execFmtId, hfind]
    rfl

/-- Settles O24: the table, evaluated, and the lookup by id. -/
theorem registryTable : Obligations.RegistryTable :=
  ⟨by decide, fun _ => ⟨fun _ => Format.ofId?_eq_some, Format.ofId?_eq_none⟩⟩

/-- Settles O25: each of the four commands is one format lookup and an answer. -/
theorem codecCommandsComplete : Obligations.CodecCommandsComplete := by
  refine fun s fmt packed pixel => ⟨fun f hf => ?_, fun hfmt => ?_⟩
  · exact ⟨withFormat_id hf s _, withFormat_id hf s _, withFormat_id hf s _, withFormat_id hf s _⟩
  · exact ⟨withFormat_unknown hfmt s _, withFormat_unknown hfmt s _, withFormat_unknown hfmt s _,
      withFormat_unknown hfmt s _⟩

end Sys2Proof.Machine

/-! ## Proofs of the drawbuffer's family: lifecycle, pixel access, LOAD and CLEAR

What a write of pixels does is said once, from the bottom up: a run of bytes (`memWrite`), one pixel (`setPx`), a list of
turns (`paint_foldl`). Each law is about a state whose slot holds a given descriptor up to the owned contents
(`State.holds`), which every write keeps, so that laws chain without a new descriptor at each write. -/

namespace Sys2Proof.Machine

/-! ### A slot that holds a descriptor -/

/-- Slot t is Live, with descriptor d but for the contents of an owned array (R35). -/
def State.holds (s : State) (t : Handle) (d : Drawbuffer) : Prop := ∃ d', s.slot t = some d' ∧ d.sameBut d'

theorem State.holds_of_slot {s : State} {t : Handle} {d : Drawbuffer} (hs : s.slot t = some d) : s.holds t d :=
  ⟨d, hs, d.sameBut_refl⟩

theorem ByteWrites.holds {t : Handle} {s s' : State} (hw : ByteWrites t s s') {d : Drawbuffer} (h : s.holds t d) :
    s'.holds t d := by
  obtain ⟨d₁, hs, hsame⟩ := h
  obtain ⟨-, -, -, -, -, -, -, hdesc⟩ := hw.frame
  obtain ⟨d₂, hs₂, hsame₂⟩ := hdesc d₁ hs
  exact ⟨d₂, hs₂, Drawbuffer.sameBut_trans hsame hsame₂⟩

/-! ### Frames -/

section
variable {s s' s'' : State} {t : Handle} {d : Drawbuffer} {touched touched' : Nat → Prop}

theorem bufferFrame_refl (h : s.holds t d) : BufferFrame s s t d touched :=
  ⟨rfl, rfl, rfl, rfl, fun _ _ => rfl, h, fun _ _ => rfl, fun _ _ => rfl⟩

theorem BufferFrame.mono (h : BufferFrame s s' t d touched) (hsub : ∀ off, touched off → touched' off) :
    BufferFrame s s' t d touched' where
  __ := h
  bytes off hoff := h.bytes off (mt (hsub off) hoff)
  host a ha := h.host a fun base ctx hb off hoff => ha base ctx hb off (hsub off hoff)

theorem BufferFrame.trans (h : BufferFrame s s' t d touched) (h' : BufferFrame s' s'' t d touched) :
    BufferFrame s s'' t d touched where
  fault := h'.fault.trans h.fault
  port := h'.port.trans h.port
  allocDraws := h'.allocDraws.trans h.allocDraws
  slotCount := h'.slotCount.trans h.slotCount
  otherSlots g hg := (h'.otherSlots g hg).trans (h.otherSlots g hg)
  descriptor := h'.descriptor
  bytes off hoff := (h'.bytes off hoff).trans (h.bytes off hoff)
  host a ha := (h'.host a ha).trans (h.host a ha)

theorem BufferFrame.respond (h : BufferFrame s s' t d touched) (ws : List Word) :
    BufferFrame s (s'.respond ws) t d touched := by
  obtain ⟨hfault, hport, hdraws, hcount, hother, hdesc, hbytes, hhost⟩ := h
  exact ⟨hfault, hport, hdraws, hcount, hother, hdesc, hbytes, hhost⟩

theorem paddingKept_refl : PaddingKept s s t d :=
  fun _ _ _ _ => rfl

theorem PaddingKept.trans (h : PaddingKept s s' t d) (h' : PaddingKept s' s'' t d) : PaddingKept s s'' t d :=
  fun hf hpad k hk => (h' hf hpad k hk).trans (h hf hpad k hk)

end

/-! ### Byte writes -/

section
variable {s : State} {t : Handle} {d : Drawbuffer} (h : s.holds t d)
include h

theorem State.readByte_writeByte_of_holds {off : Nat} (hoff : off < d.byteLength) (v : Byte) (a : Nat) :
    (s.writeByte t off v).readByte t a = if a = off then v else s.readByte t a := by
  obtain ⟨d₁, hs, hsame⟩ := h
  exact State.readByte_writeByte hs (hsame.byteLength_eq ▸ hoff) v a

theorem bufferFrame_writeByte {off : Nat} (hoff : off < d.byteLength) (v : Byte) :
    BufferFrame s (s.writeByte t off v) t d (· = off) := by
  obtain ⟨hfault, hport, -, hdraws, hcount⟩ := s.writeByte_frame t off v
  refine ⟨hfault, hport, hdraws, hcount, (s.writeByte_slot t off v).1, (ByteWrites.refl.write off v).holds h,
    fun a ha => (State.readByte_writeByte_of_holds h hoff v a).trans (if_neg ha),
    fun a ha => s.hostMem_writeByte t off v a fun d₁ base ctx hs hb _ => ?_⟩
  obtain ⟨d₂, hs₂, hsame⟩ := h
  obtain rfl : d₂ = d₁ := Option.some.inj (hs₂.symm.trans hs)
  exact ha base ctx (hsame.borrowed hb) off rfl

theorem bufferFrame_memWrite (bs : List Byte) {off : Nat} (hoff : off + bs.length ≤ d.byteLength) :
    BufferFrame s (s.memWrite t off bs) t d fun a => off ≤ a ∧ a < off + bs.length := by
  induction bs generalizing s off with
  | nil => exact bufferFrame_refl h
  | cons b bs ih =>
    rw [List.length_cons] at hoff
    have hfirst := bufferFrame_writeByte h (off := off) (by omega) b
    have hrest := ih hfirst.descriptor (off := off + 1) (by omega)
    exact (hfirst.mono fun a ha => by simp only [List.length_cons]; omega).trans
      (hrest.mono fun a ha => by simp only [List.length_cons]; omega)

/-- What a write of a run of bytes does to every byte of its own buffer's space (R62). -/
theorem State.readByte_memWrite (bs : List Byte) {off : Nat} (hoff : off + bs.length ≤ d.byteLength) (a : Nat) :
    (s.memWrite t off bs).readByte t a =
      if off ≤ a ∧ a < off + bs.length then bs.getD (a - off) 0 else s.readByte t a := by
  split
  case isFalse hout => exact (bufferFrame_memWrite h bs hoff).bytes a hout
  case isTrue hin =>
    induction bs generalizing s off with
    | nil => rw [List.length_nil] at hin; omega
    | cons b bs ih =>
      rw [List.length_cons] at hoff hin
      have hfirst := bufferFrame_writeByte h (off := off) (by omega) b
      by_cases ha : a = off
      · subst ha
        refine ((bufferFrame_memWrite hfirst.descriptor bs (off := a + 1) (by omega)).bytes a (by omega)).trans ?_
        rw [State.readByte_writeByte_of_holds h (by omega), if_pos rfl, Nat.sub_self, List.getD_cons_zero]
      · refine (ih hfirst.descriptor (off := off + 1) (by omega) (by omega)).trans ?_
        rw [show a - off = a - (off + 1) + 1 by omega, List.getD_cons_succ]

end

/-! ### Bits and bytes of a stored pixel -/

theorem getLsbD_replaceBit (v : Byte) {k : Nat} (hk : k < 8) (bit : Bool) (j : Nat) :
    (replaceBit v k bit).getLsbD j = if j = k then bit else v.getLsbD j := by
  unfold replaceBit
  by_cases hj : j = k
  · subst hj
    cases bit <;> simp [hk]
  · cases bit
    · by_cases hlt : j < 8
      · simp [hj, hlt]
      · simp [hj, hlt, BitVec.getLsbD_of_ge v j (not_lt.mp hlt)]
    · simp [hj, Ne.symm hj]

theorem dec_mono1_bit (P : Word) : dec .mono1 P = if P.getLsbD 0 then 0xFFFFFFFF else 0x00000000 := by
  rw [dec_mono1, BitVec.getLsbD, Nat.testBit_zero]
  obtain h | h := Nat.mod_two_eq_zero_or_one P.toNat <;> rw [h] <;> rfl

theorem Format.bpp_eq_mul {f : Format} (hf : f ≠ .mono1) : f.bpp = 8 * (f.bpp / 8) := by
  cases f with
  | mono1 => exact absurd rfl hf
  | _ => rfl

theorem packedOfBytes_cons (b : Byte) {bs : List Byte} (h : (packedOfBytes bs).toNat < 2 ^ 24) :
    (packedOfBytes (b :: bs)).toNat = (packedOfBytes bs).toNat * 2 ^ 8 + b.toNat := by
  change (packedOfBytes bs <<< 8 ||| b.setWidth 32).toNat = _
  rw [BitVec.toNat_or, BitVec.toNat_shiftLeft, BitVec.toNat_setWidth_of_le (by decide), Nat.shiftLeft_eq,
    Nat.mod_eq_of_lt (by omega), ← Nat.shiftLeft_eq, ← Nat.shiftLeft_add_eq_or_of_lt b.isLt, Nat.shiftLeft_eq]

theorem packedOfBytes_lt (bs : List Byte) (hlen : bs.length ≤ 4) : (packedOfBytes bs).toNat < 2 ^ (8 * bs.length) := by
  induction bs with
  | nil => decide
  | cons b bs ih =>
    rw [List.length_cons] at hlen ⊢
    have hlt := ih (by omega)
    have h24 : 2 ^ (8 * bs.length) ≤ 2 ^ 24 := Nat.pow_le_pow_right (by decide) (by omega)
    rw [packedOfBytes_cons b (hlt.trans_le h24), Nat.mul_succ, pow_add]
    omega

/-- At most four bytes read little-endian are the sum of the bytes at their weights (R65). -/
theorem toNat_packedOfBytes (g : Nat → Byte) {n : Nat} (hn : n ≤ 4) :
    (packedOfBytes ((List.range n).map g)).toNat = ((List.range n).map fun k => (g k).toNat * 2 ^ (8 * k)).sum := by
  induction n generalizing g with
  | zero => rfl
  | succ n ih =>
    have hlt := packedOfBytes_lt ((List.range n).map (g ∘ Nat.succ)) (by simp; omega)
    have h24 : 2 ^ (8 * ((List.range n).map (g ∘ Nat.succ)).length) ≤ 2 ^ 24 :=
      Nat.pow_le_pow_right (by decide) (by simp; omega)
    rw [List.range_succ_eq_map, List.map_cons, List.map_map, packedOfBytes_cons _ (hlt.trans_le h24),
      ih (g ∘ Nat.succ) (by omega), List.map_cons, List.sum_cons, List.map_map, ← List.sum_map_mul_right, Nat.add_comm]
    simp only [Function.comp_def, Nat.mul_succ, pow_add, Nat.mul_assoc, Nat.mul_zero, pow_zero, Nat.mul_one]

theorem sum_bytes_eq_mod (x n : Nat) :
    ((List.range n).map fun k => x / 2 ^ (8 * k) % 2 ^ 8 * 2 ^ (8 * k)).sum = x % 2 ^ (8 * n) := by
  induction n with
  | zero => simp [Nat.mod_one]
  | succ n ih =>
    rw [List.range_succ, List.map_append, List.sum_append, ih, List.map_singleton, List.sum_singleton, Nat.mul_succ,
      pow_add, Nat.mod_mul, Nat.mul_comm (2 ^ (8 * n))]

/-- A value of at most four bytes is its bytes read little-endian (R65, R131). -/
theorem packedOfBytes_wordByte {P : Word} {n : Nat} (hn : n ≤ 4) (hP : P.toNat < 2 ^ (8 * n)) :
    packedOfBytes ((List.range n).map (wordByte P)) = P := by
  refine BitVec.eq_of_toNat_eq ?_
  simp only [toNat_packedOfBytes _ hn, wordByte, toNat_extractLsb'_div]
  rw [sum_bytes_eq_mod, Nat.mod_eq_of_lt hP]

/-! ### The places of pixels -/

/-- The index i = y*w + x of a pixel (R63). -/
def Drawbuffer.index (d : Drawbuffer) (q : Point) : Nat := pixelIndex d.w q.1.toNat q.2.toNat

section
variable {d : Drawbuffer}

theorem Drawbuffer.inBounds_iff {x y : Int} : d.inBounds x y = true ↔ 0 ≤ x ∧ x < d.w ∧ 0 ≤ y ∧ y < d.h :=
  decide_eq_true_iff

theorem Drawbuffer.index_lt {q : Point} (hq : d.inBounds q.1 q.2 = true) : d.index q < d.w * d.h := by
  obtain ⟨hx, hxw, hy, hyh⟩ := Drawbuffer.inBounds_iff.mp hq
  have hrow : (q.2.toNat + 1) * d.w ≤ d.h * d.w := Nat.mul_le_mul_right _ (by omega)
  rw [Nat.succ_mul, Nat.mul_comm d.h] at hrow
  unfold Drawbuffer.index pixelIndex
  omega

theorem Drawbuffer.eq_of_index_eq {q q' : Point} (hq : d.inBounds q.1 q.2 = true) (hq' : d.inBounds q'.1 q'.2 = true)
    (h : d.index q = d.index q') : q = q' := by
  obtain ⟨hx, hxw, hy, -⟩ := Drawbuffer.inBounds_iff.mp hq
  obtain ⟨hx', hxw', hy', -⟩ := Drawbuffer.inBounds_iff.mp hq'
  unfold Drawbuffer.index pixelIndex at h
  have hmod := congrArg (· % d.w) h
  have hdiv := congrArg (· / d.w) h
  have hw : 0 < d.w := by omega
  have hxlt : q.1.toNat < d.w := by omega
  have hxlt' : q'.1.toNat < d.w := by omega
  simp only [Nat.mul_add_mod', Nat.mod_eq_of_lt hxlt, Nat.mod_eq_of_lt hxlt'] at hmod
  simp only [Nat.mul_comm _ d.w, Nat.mul_add_div hw, Nat.div_eq_of_lt hxlt, Nat.div_eq_of_lt hxlt'] at hdiv
  exact Prod.ext (by omega) (by omega)

theorem Drawbuffer.byteLength_mono1 (hf : d.fmt = .mono1) : d.byteLength = (d.w * d.h + 7) / 8 := by
  simp [Drawbuffer.byteLength, Machine.byteLength, hf, Format.bpp]

theorem Drawbuffer.byteLength_bytes (hf : d.fmt ≠ .mono1) : d.byteLength = d.w * d.h * (d.fmt.bpp / 8) := by
  have hbits : d.w * d.h * d.fmt.bpp = 8 * (d.w * d.h * (d.fmt.bpp / 8)) := by
    rw [Nat.mul_left_comm, ← Format.bpp_eq_mul hf]
  unfold Drawbuffer.byteLength Machine.byteLength
  omega

/-- A pixel's bytes lie inside the buffer (R63). -/
theorem Drawbuffer.pixelSpan_le {q : Point} (hq : d.inBounds q.1 q.2 = true) :
    (pixelSpan d.fmt d.w q.1.toNat q.2.toNat).1 + (pixelSpan d.fmt d.w q.1.toNat q.2.toNat).2 ≤ d.byteLength := by
  have hlt := Drawbuffer.index_lt hq
  unfold pixelSpan
  split
  case isTrue hf =>
    change d.index q / 8 + 1 ≤ d.byteLength
    rw [Drawbuffer.byteLength_mono1 hf]
    omega
  case isFalse hf =>
    change d.index q * (d.fmt.bpp / 8) + (d.fmt.bpp / 8) ≤ d.byteLength
    rw [Drawbuffer.byteLength_bytes hf, ← Nat.succ_mul]
    exact Nat.mul_le_mul_right _ hlt

theorem Drawbuffer.pixelHas.lt_byteLength {q : Point} {off : Nat} (h : d.pixelHas q off) : off < d.byteLength := by
  obtain ⟨hq, -, hoff⟩ := h
  exact hoff.trans_le (Drawbuffer.pixelSpan_le hq)

/-- The bytes of different pixels are apart. -/
theorem not_mem_other_block {i j n : Nat} (h : i ≠ j) {k : Nat} (hk : k < n) :
    ¬ (j * n ≤ i * n + k ∧ i * n + k < j * n + n) := by
  rintro ⟨hl, hr⟩
  have e1 : (i * n + k) / n = i := by
    rw [Nat.mul_comm, Nat.mul_add_div (by omega), Nat.div_eq_of_lt hk, Nat.add_zero]
  have e2 : (i * n + k) / n = j := Nat.div_eq_of_lt_le hl (by rwa [Nat.succ_mul])
  exact h (e1.symm.trans e2)

end

/-! ### One pixel read and written -/

theorem Drawbuffer.sameBut.inBounds_eq {d d' : Drawbuffer} (h : d.sameBut d') (x y : Int) :
    d'.inBounds x y = d.inBounds x y := by
  obtain ⟨hw, hh, -, -⟩ := h
  rw [Bool.eq_iff_iff, Drawbuffer.inBounds_iff, Drawbuffer.inBounds_iff, hw, hh]

section
variable {s : State} {t : Handle} {d : Drawbuffer} (h : s.holds t d)
include h

theorem State.getPx_of_holds (x y : Int) :
    s.getPx t x y = if d.inBounds x y then s.decodePx t d.fmt d.w x.toNat y.toNat else transparent := by
  obtain ⟨d₁, hs, hsame⟩ := h
  have hin := hsame.inBounds_eq x y
  obtain ⟨hw, -, hf, -⟩ := hsame
  simp only [State.getPx, hs, hin, hw, hf]

theorem State.setPx_of_holds (x y : Int) (p : Pixel) :
    s.setPx t x y p = if d.inBounds x y then s.encodePx t d.fmt d.w x.toNat y.toNat p else s := by
  obtain ⟨d₁, hs, hsame⟩ := h
  have hin := hsame.inBounds_eq x y
  obtain ⟨hw, -, hf, -⟩ := hsame
  simp only [State.setPx, hs, hin, hw, hf]

theorem State.getPx_outside {x y : Int} (hout : ¬ d.inBounds x y = true) : s.getPx t x y = transparent :=
  (State.getPx_of_holds h x y).trans (if_neg hout)

theorem State.setPx_outside {x y : Int} (hout : ¬ d.inBounds x y = true) (p : Pixel) : s.setPx t x y p = s :=
  (State.setPx_of_holds h x y p).trans (if_neg hout)

variable {q : Point} (hq : d.inBounds q.1 q.2 = true)
include hq

/-- A mono1 pixel reads as its bit (R63, R132). -/
theorem State.getPx_mono1 (hf : d.fmt = .mono1) :
    s.getPx t q.1 q.2 =
      if (s.readByte t (d.index q / 8)).getLsbD (7 - d.index q % 8) then 0xFFFFFFFF else 0x00000000 := by
  have hbit : ∀ b : Bool, BitVec.getLsbD (if b then (1 : Word) else 0) 0 = b := by decide
  rw [State.getPx_of_holds h, if_pos hq, State.decodePx, if_pos hf, hf, dec_mono1_bit, hbit, pixelSpan, if_pos rfl]
  rfl

/-- A pixel of whole bytes reads as what its bytes, little-endian, stand for (R63, R65). -/
theorem State.getPx_bytes (hf : d.fmt ≠ .mono1) :
    s.getPx t q.1 q.2 = dec d.fmt (packedOfBytes ((List.range (d.fmt.bpp / 8)).map fun k =>
      s.readByte t (d.index q * (d.fmt.bpp / 8) + k))) := by
  rw [State.getPx_of_holds h, if_pos hq, State.decodePx, if_neg hf, pixelSpan, if_neg hf]
  rfl

/-- A mono1 pixel write sets the pixel's bit to enc's and no other bit of the buffer's space (R67). -/
theorem State.setPx_mono1 (hf : d.fmt = .mono1) (p : Pixel) (off k : Nat) :
    ((s.setPx t q.1 q.2 p).readByte t off).getLsbD k =
      if off = d.index q / 8 ∧ k = 7 - d.index q % 8 then (enc d.fmt p).getLsbD 0
      else (s.readByte t off).getLsbD k := by
  have hspan : pixelSpan d.fmt d.w q.1.toNat q.2.toNat = (d.index q / 8, 1) := if_pos hf
  have hfits := Drawbuffer.pixelSpan_le hq
  rw [hspan] at hfits
  rw [State.setPx_of_holds h, if_pos hq, State.encodePx, if_pos hf, hspan, State.readByte_memWrite h _ hfits]
  by_cases hoff : off = d.index q / 8
  · subst hoff
    rw [if_pos (by simp), Nat.sub_self, List.getD_cons_zero]
    refine (getLsbD_replaceBit _ (k := 7 - d.index q % 8) (by omega) _ k).trans ?_
    simp only [true_and]
  · rw [if_neg (by simp only [List.length_singleton]; omega), if_neg (fun hc => hoff hc.1)]

/-- A pixel write of whole bytes stores enc's bytes at i*n, the least significant first, and no other byte (R63, R151). -/
theorem State.setPx_bytes (hf : d.fmt ≠ .mono1) (p : Pixel) (off : Nat) :
    (s.setPx t q.1 q.2 p).readByte t off =
      if d.index q * (d.fmt.bpp / 8) ≤ off ∧ off < d.index q * (d.fmt.bpp / 8) + d.fmt.bpp / 8 then
        wordByte (enc d.fmt p) (off - d.index q * (d.fmt.bpp / 8))
      else s.readByte t off := by
  have hspan : pixelSpan d.fmt d.w q.1.toNat q.2.toNat = (d.index q * (d.fmt.bpp / 8), d.fmt.bpp / 8) := if_neg hf
  have hlen : ((List.range (d.fmt.bpp / 8)).map (wordByte (enc d.fmt p))).length = d.fmt.bpp / 8 := by simp
  have hfits := Drawbuffer.pixelSpan_le hq
  rw [hspan] at hfits
  rw [State.setPx_of_holds h, if_pos hq, State.encodePx, if_neg hf, hspan,
    State.readByte_memWrite h _ (hlen.symm ▸ hfits), hlen]
  refine if_ctx_congr Iff.rfl (fun hin => ?_) fun _ => rfl
  simp [List.getD_eq_getElem?_getD, show off - d.index q * (d.fmt.bpp / 8) < d.fmt.bpp / 8 by omega]

/-- R142, R185: a pixel written reads as what the format keeps of it. -/
theorem State.getPx_setPx_same (p : Pixel) : (s.setPx t q.1 q.2 p).getPx t q.1 q.2 = quant d.fmt p := by
  have h' := (s.setPx_byteWrites t q.1 q.2 p).holds h
  by_cases hf : d.fmt = .mono1
  · simp only [State.getPx_mono1 h' hq hf, State.setPx_mono1 h hq hf, and_self, if_true, quant, hf, dec_mono1_bit]
  · have hlt := enc_lt d.fmt p
    rw [Format.bpp_eq_mul hf] at hlt
    have hn : d.fmt.bpp / 8 ≤ 4 := by have := d.fmt.bpp_le; omega
    rw [State.getPx_bytes h' hq hf, quant]
    refine congrArg (dec d.fmt) (.trans (congrArg packedOfBytes (List.map_congr_left fun k hk => ?_))
      (packedOfBytes_wordByte hn hlt))
    rw [State.setPx_bytes h hq hf, if_pos (by rw [List.mem_range] at hk; omega), Nat.add_sub_cancel_left]

theorem State.getPx_setPx_other {q' : Point} (hq' : d.inBounds q'.1 q'.2 = true) (hne : q' ≠ q) (p : Pixel) :
    (s.setPx t q.1 q.2 p).getPx t q'.1 q'.2 = s.getPx t q'.1 q'.2 := by
  have h' := (s.setPx_byteWrites t q.1 q.2 p).holds h
  have hidx : d.index q' ≠ d.index q := mt (Drawbuffer.eq_of_index_eq hq' hq) hne
  by_cases hf : d.fmt = .mono1
  · have hbit : ¬ (d.index q' / 8 = d.index q / 8 ∧ 7 - d.index q' % 8 = 7 - d.index q % 8) := by omega
    rw [State.getPx_mono1 h' hq' hf, State.getPx_mono1 h hq' hf, State.setPx_mono1 h hq hf, if_neg hbit]
  · rw [State.getPx_bytes h' hq' hf, State.getPx_bytes h hq' hf]
    refine congrArg (dec d.fmt) (congrArg packedOfBytes (List.map_congr_left fun k hk => ?_))
    rw [State.setPx_bytes h hq hf, if_neg (not_mem_other_block hidx (List.mem_range.mp hk))]

theorem bufferFrame_setPx_inBounds (p : Pixel) : BufferFrame s (s.setPx t q.1 q.2 p) t d (d.pixelHas q) := by
  have hfits := Drawbuffer.pixelSpan_le hq
  rw [State.setPx_of_holds h, if_pos hq, State.encodePx]
  split
  case isTrue hf =>
    have hspan : (pixelSpan d.fmt d.w q.1.toNat q.2.toNat).2 = 1 := by rw [pixelSpan, if_pos hf]
    rw [hspan] at hfits
    exact (bufferFrame_memWrite h _ hfits).mono fun off hoff => ⟨hq, hoff.1, hspan ▸ hoff.2⟩
  case isFalse =>
    refine (bufferFrame_memWrite h _ (by simpa using hfits)).mono fun off hoff => ⟨hq, hoff.1, ?_⟩
    simpa using hoff.2

/-- The padding bits of a mono1 buffer belong to no pixel (R67). -/
theorem paddingKept_setPx_inBounds (p : Pixel) : PaddingKept s (s.setPx t q.1 q.2 p) t d := by
  intro hf hpad k hk
  have hlt := Drawbuffer.index_lt hq
  rw [State.setPx_mono1 h hq hf, if_neg]
  rw [Drawbuffer.byteLength_mono1 hf]
  omega

end

/-! ### Many pixels written -/

/-- From s to s' each pixel q of buffer t went through `F q`, and nothing changed but the bytes of touched pixels. -/
structure Painted (t : Handle) (d : Drawbuffer) (touched : Point → Prop) (F : Point → Pixel → Pixel) (s s' : State) :
    Prop where
  pixels : ∀ q : Point, d.inBounds q.1 q.2 = true → s'.getPx t q.1 q.2 = F q (s.getPx t q.1 q.2)
  padding : PaddingKept s s' t d
  frame : BufferFrame s s' t d fun off => ∃ q, touched q ∧ d.pixelHas q off

section
variable {s s' s'' : State} {t : Handle} {d : Drawbuffer} {touched touched' : Point → Prop}
  {F G : Point → Pixel → Pixel}

theorem painted_refl (h : s.holds t d) : Painted t d touched (fun _ => id) s s :=
  ⟨fun _ _ => rfl, paddingKept_refl, bufferFrame_refl h⟩

theorem Painted.mono (h : Painted t d touched F s s') (hsub : ∀ q, touched q → touched' q) :
    Painted t d touched' F s s' :=
  ⟨h.pixels, h.padding, h.frame.mono fun _ ⟨q, hq, hoff⟩ => ⟨q, hsub q hq, hoff⟩⟩

theorem Painted.trans (h : Painted t d touched F s s') (h' : Painted t d touched G s' s'') :
    Painted t d touched (fun q => G q ∘ F q) s s'' where
  pixels q hq := (h'.pixels q hq).trans (congrArg (G q) (h.pixels q hq))
  padding := h.padding.trans h'.padding
  frame := h.frame.trans h'.frame

/-- R181: one pixel write, in bounds or not, whose pixel is made from what it replaces. -/
theorem painted_setPx (h : s.holds t d) (q : Point) (f : Pixel → Pixel) :
    Painted t d (· = q) (fun q' p => if q' = q then quant d.fmt (f p) else p) s
      (s.setPx t q.1 q.2 (f (s.getPx t q.1 q.2))) := by
  by_cases hq : d.inBounds q.1 q.2 = true
  · refine ⟨fun q' hq' => ?_, paddingKept_setPx_inBounds h hq _,
      (bufferFrame_setPx_inBounds h hq _).mono fun off hoff => ⟨q, rfl, hoff⟩⟩
    split
    case isTrue heq => rw [heq, State.getPx_setPx_same h hq]
    case isFalse hne => exact State.getPx_setPx_other h hq hq' hne _
  · rw [State.setPx_outside h hq]
    exact ⟨fun q' hq' => (if_neg (show q' ≠ q by rintro rfl; exact hq hq')).symm, paddingKept_refl, bufferFrame_refl h⟩

/-- A loop whose turn at q puts pixel q through g q, and leaves the others, puts each pixel through g as often as it
stands in the list. `touched` are the points whose turn may write at all, so that a pass that skips points is covered. -/
theorem painted_foldl {turn : State → Point → State} {g : Point → Pixel → Pixel}
    (hturn : ∀ (s : State) (q : Point), s.holds t d →
      Painted t d (fun q' => q' = q ∧ touched q) (fun q' p => if q' = q then g q p else p) s (turn s q))
    (pts : List Point) (h : s.holds t d) :
    Painted t d (fun q => q ∈ pts ∧ touched q) (fun q => (g q)^[pts.count q]) s (pts.foldl turn s) := by
  induction pts generalizing s with
  | nil => exact painted_refl h
  | cons q pts ih =>
    have hfirst := hturn s q h
    have hrest := ih hfirst.frame.descriptor
    obtain ⟨hpixels, hpadding, hframe⟩ := (hfirst.mono (touched' := fun q' => q' ∈ q :: pts ∧ touched q')
      (by rintro q' ⟨rfl, ht⟩; exact ⟨List.mem_cons_self, ht⟩)).trans
      (hrest.mono fun q' ⟨hmem, ht⟩ => ⟨List.mem_cons_of_mem q hmem, ht⟩)
    refine ⟨fun q' hq' => (hpixels q' hq').trans ?_, hpadding, hframe⟩
    by_cases heq : q' = q
    · subst heq
      simp
    · simp [heq, Ne.symm heq]

/-- What put makes of the pixel it replaces (R182). -/
def DrawMode.paint (p : Pixel) : DrawMode → Pixel → Pixel
  | .overwrite, _ => p
  | .alphaBlend, base => blend base p

theorem State.put_eq_setPx (s : State) (t : Handle) (x y : Int) (p : Pixel) (m : DrawMode) :
    s.put t x y p m = s.setPx t x y (m.paint p (s.getPx t x y)) := by
  cases m <;> rfl

theorem painted_putAll (h : s.holds t d) (pts : List Point) (p : Pixel) (m : DrawMode) :
    Painted t d (· ∈ pts) (fun q => (fun b => quant d.fmt (m.paint p b))^[pts.count q]) s (s.putAll t pts p m) := by
  refine (painted_foldl (touched := fun _ => True) (fun s q hs => ?_) pts h).mono fun q hq => hq.1
  rw [State.put_eq_setPx]
  exact (painted_setPx hs q (m.paint p)).mono fun q' hq' => ⟨hq', trivial⟩

/-- A command that draws one paint on the points of a list and answers OK (R182). -/
theorem drawn_putAll (hs : s.slot t = some d) (pts : List Point) (p : Pixel) (m : DrawMode) :
    Drawn s ((s.putAll t pts p m).respond [statusOk]) t d pts (m.paint p) := by
  obtain ⟨hpixels, hpadding, hframe⟩ := painted_putAll (State.holds_of_slot hs) pts p m
  obtain ⟨-, -, hresp, -⟩ := (s.putAll_byteWrites t pts p m).frame
  exact ⟨congrArg (· ++ [statusOk]) hresp, hpixels, hpadding, hframe.respond _⟩

end

theorem Drawbuffer.mem_pixels {d : Drawbuffer} {q : Point} : q ∈ d.pixels ↔ d.inBounds q.1 q.2 = true := by
  rw [Drawbuffer.pixels, mem_rasterBox, Drawbuffer.inBounds_iff]
  omega

theorem iterate_const {α : Type} (c b : α) {n : Nat} (hn : n ≠ 0) : (fun _ => c)^[n] b = c := by
  obtain ⟨n, rfl⟩ := Nat.exists_eq_succ_of_ne_zero hn
  rw [Function.iterate_succ_apply']

/-! ### The arguments of LOAD and CLEAR -/

theorem toNat_wordByte_zero {c : S32} (h0 : 0 ≤ c.toInt) (h255 : c.toInt ≤ 255) :
    ((wordByte c 0).toNat : Int) = c.toInt := by
  rw [wordByte, toNat_extractLsb'_div]
  have := BitVec.toInt_eq_toNat_cond c
  split at this <;> omega

/-- pix of four channel arguments in range, as a number (R15, R188). -/
theorem pix_wordByte {r g b a : S32} (hr0 : 0 ≤ r.toInt) (hr : r.toInt ≤ 255) (hg0 : 0 ≤ g.toInt) (hg : g.toInt ≤ 255)
    (hb0 : 0 ≤ b.toInt) (hb : b.toInt ≤ 255) (ha0 : 0 ≤ a.toInt) (ha : a.toInt ≤ 255) :
    pix (wordByte r 0) (wordByte g 0) (wordByte b 0) (wordByte a 0) =
      BitVec.ofInt 32 (r.toInt * 2 ^ 24 + g.toInt * 2 ^ 16 + b.toInt * 2 ^ 8 + a.toInt) := by
  refine (BitVec.setWidth_eq _).symm.trans ?_
  rw [← BitVec.ofNat_toNat, toNat_pix, ← BitVec.ofInt_natCast, ← toNat_wordByte_zero hr0 hr,
    ← toNat_wordByte_zero hg0 hg, ← toNat_wordByte_zero hb0 hb, ← toNat_wordByte_zero ha0 ha]
  push_cast
  rfl

/-- A LOAD that is a command has data for its byte count (R93). -/
theorem le_length_unpackWords {t : Handle} {n : U32} {data : List Word} (h : (Instr.load t n data).wellFormed = true) :
    n.toNat ≤ (unpackWords data).length := by
  have hwords : data.length = dataWordCount n.toNat := beq_iff_eq.mp h
  have hbytes : (unpackWords data).length = 4 * data.length := by
    simp [unpackWords, wordBytes, List.length_flatMap, Nat.mul_comm]
  rw [hbytes, hwords, dataWordCount]
  omega

theorem channelInRange_iff {c : S32} : channelInRange c = true ↔ 0 ≤ c.toInt ∧ c.toInt ≤ 255 :=
  decide_eq_true_iff

/-! ### The checks of NEW and WRAP -/

section
variable {s : State} {t : Handle} {w h fmt : Word} {k : Nat → Nat → Format → Result}
  (hempty : s.slots[t.toNat]? = some none)
include hempty

/-- R330: the dimensions are checked first. -/
theorem creation_badDimension (hwh : w.toInt ≤ 0 ∨ h.toInt ≤ 0) :
    (withEmpty t s <| withDimensions w h s fun w h => withFormat fmt s (k w h)) = .next (s.respond [0x00000001]) :=
  (withEmpty_pass hempty _).trans (withDimensions_fail (w := w) (h := h) hwh s _)

theorem creation_pass (hw : 0 < w.toInt) (hh : 0 < h.toInt) :
    (withEmpty t s <| withDimensions w h s fun w h => withFormat fmt s (k w h)) =
      withFormat fmt s (k w.toInt.toNat h.toInt.toNat) :=
  (withEmpty_pass hempty _).trans (withDimensions_pass (w := w) (h := h) hw hh s _)

theorem creation_good (hw : 0 < w.toInt) (hh : 0 < h.toInt) {f : Format} (hf : f.id = fmt.toNat) :
    (withEmpty t s <| withDimensions w h s fun w h => withFormat fmt s (k w h)) = k w.toInt.toNat h.toInt.toNat f :=
  (creation_pass hempty hw hh).trans (withFormat_id hf s _)

theorem State.lt_of_empty : t.toNat < s.slots.length :=
  (List.getElem?_eq_some_iff.mp hempty).1

end

/-! ### CLOSE -/

theorem State.setSlot_none_of_empty {s : State} {t : Handle} (h : s.slot t = none) : s.setSlot t none = s := by
  have hset : s.slots.set t.toNat none = s.slots := by
    by_cases hlt : t.toNat < s.slots.length
    · have hget : s.slots[t.toNat] = none := by simpa [State.slot, hlt] using h
      rw [← hget, List.set_getElem_self]
    · exact List.set_eq_of_length_le (not_lt.mp hlt)
  rw [State.setSlot, hset]

/-- The words CLOSE sends, by what the slot held (R172, R341). -/
def closeWords (t : Handle) : Option Drawbuffer → List Word
  | none | some ⟨_, _, _, .owned _⟩ => [statusOk]
  | some ⟨_, _, _, .borrowed _ ctx⟩ => [teardownWord t, ctx, statusOk]

theorem execClose_eq {s : State} {t : Handle} (hlt : t.toNat < s.slots.length) :
    execClose t s = .next ((s.setSlot t none).respond (closeWords t (s.slot t))) := by
  rw [execClose, withExisting_pass hlt]
  cases hs : s.slot t with
  | none => rw [State.setSlot_none_of_empty hs]; rfl
  | some d =>
    obtain ⟨w, h, f, _ | ⟨base, ctx⟩⟩ := d
    · rfl
    · simp [State.respondOk, State.respond, State.setSlot, closeWords]

/-! ### The obligations -/

/-- Settles O31: NEW's checks run in the order of R330. -/
theorem newReportsErrorsInOrder : Obligations.NewReportsErrorsInOrder := by
  refine fun s t w h fmt hempty => ⟨creation_badDimension hempty, fun hw hh hfmt => ?_⟩
  exact (creation_pass hempty hw hh).trans (withFormat_unknown hfmt s _)

/-- Settles O32: after WRAP's checks the slot is set and nothing else. -/
theorem wrapRecordsTheRegion : Obligations.WrapRecordsTheRegion := by
  refine fun s t w h fmt baseLo baseHi ctx hempty => ⟨creation_badDimension hempty, fun hw hh hfmt => ?_,
    fun f hw hh hf => ⟨fun hbig => ?_, fun hfits => ?_⟩⟩
  · exact (creation_pass hempty hw hh).trans (withFormat_unknown hfmt s _)
  · exact (creation_good hempty hw hh hf).trans (if_pos hbig)
  · exact ⟨_, baseHi ++ baseLo, (creation_good hempty hw hh hf).trans (if_neg (not_lt.mpr hfits)), rfl,
      State.slot_setSlot_same _ (State.lt_of_empty hempty), toNat_append_add baseHi baseLo,
      fun g hg => State.slot_setSlot_other s _ hg, State.length_setSlot .., rfl, rfl, rfl, rfl⟩

/-- Settles O30: after NEW's checks the size and the draw decide between AllocationFailure and an Owned slot whose array
lists no byte. -/
theorem newMakesAZeroedBuffer : Obligations.NewMakesAZeroedBuffer := by
  intro s t w h fmt f hempty hw hh hf n
  by_cases hdenied : Config.memLimit < n ∨ Config.allocOk s.allocDraws = false
  · refine ⟨_, (creation_good hempty hw hh hf).trans (if_pos hdenied), fun hfits hok => ?_, fun _ => ⟨rfl, rfl⟩,
      fun _ _ => rfl, rfl, rfl, rfl, rfl⟩
    exact absurd hdenied (by simp [hfits, hok])
  · have hslot : ((State.setSlot { s with allocDraws := s.allocDraws + 1 } t
        (some ⟨w.toInt.toNat, h.toInt.toNat, f, .owned []⟩)).respond [statusOk]).slot t = _ :=
      State.slot_setSlot_same _ (State.lt_of_empty hempty)
    refine ⟨_, (creation_good hempty hw hh hf).trans (if_neg hdenied), fun _ _ => ⟨rfl, fun off => ?_, _, _, hslot,
      Int.toNat_of_nonneg hw.le, Int.toNat_of_nonneg hh.le, rfl, rfl⟩, fun hc => absurd hc hdenied,
      fun g hg => State.slot_setSlot_other _ _ hg, State.length_setSlot .., rfl, rfl, rfl⟩
    rw [State.readByte, hslot]
    rfl

/-- Settles O33: by what the slot holds; a second CLOSE finds it Empty. -/
theorem closeEmptiesTheSlot : Obligations.CloseEmptiesTheSlot := by
  intro s t hlt
  have hslot : ((s.setSlot t none).respond (closeWords t (s.slot t))).slot t = none :=
    State.slot_setSlot_same none hlt
  refine ⟨_, closeWords t (s.slot t), execClose_eq hlt, rfl, fun hs => by rw [hs]; rfl, ?_, ?_, hslot,
    fun g hg => State.slot_setSlot_other s none hg, State.length_setSlot .., rfl, rfl, rfl, rfl, ?_⟩
  · rintro ⟨w, h, f, _⟩ mem hs rfl
    rw [hs]
    rfl
  · rintro ⟨w, h, f, _⟩ base ctx hs rfl
    rw [hs, ← teardownWord_eq]
    rfl
  · have hlt' : t.toNat < ((s.setSlot t none).respond (closeWords t (s.slot t))).slots.length :=
      hlt.trans_eq (State.length_setSlot s t none).symm
    refine (execClose_eq hlt').trans ?_
    rw [State.setSlot_none_of_empty hslot, hslot]
    rfl

/-- Settles O34: each query answers from the descriptor. -/
theorem queriesComplete : Obligations.QueriesComplete :=
  fun _ _ _ hs => ⟨withLive_pass hs _, withLive_pass hs _, withLive_pass hs _, withLive_pass hs _⟩

/-- Settles O37: the pixel laws, at a pixel of natural coordinates. -/
theorem setPxThenGetPx : Obligations.SetPxThenGetPx := by
  intro s t d x y p hs hx hy s' i
  have h := State.holds_of_slot hs
  have hq : d.inBounds x y = true := Drawbuffer.inBounds_iff.mpr (by omega)
  refine ⟨State.getPx_setPx_same h (q := (x, y)) hq p, fun x' y' hne => ?_, fun hf k hk => ?_, fun hf k hk => ?_⟩
  · by_cases hq' : d.inBounds x' y' = true
    · exact State.getPx_setPx_other h (q := (x, y)) hq (q' := (x', y')) hq' hne p
    · exact (State.getPx_outside ((s.setPx_byteWrites t x y p).holds h) hq').trans (State.getPx_outside h hq').symm
  · refine (State.setPx_bytes h (q := (x, y)) hq hf p _).trans ((if_pos ?_).trans ?_)
    · exact ⟨Nat.le_add_right .., Nat.add_lt_add_left hk _⟩
    · exact congrArg (wordByte _) (Nat.add_sub_cancel_left ..)
  · exact (State.setPx_mono1 h (q := (x, y)) hq hf p _ k).trans (if_congr (and_iff_right rfl) rfl rfl)

/-- Settles O35: what a byte offset and a pixel read. -/
theorem getPixelReadsTheStoredPixel : Obligations.GetPixelReadsTheStoredPixel := by
  intro s t d x y hs ha
  have h := State.holds_of_slot hs
  have hexec : exec (.getPixel t x y) s = .next (s.respond [0, s.getPx t x.toInt y.toInt]) :=
    (withLive_pass hs _).trans (onMemory_pass ha _)
  refine ⟨fun off => ⟨fun mem hb => ?_, fun base ctx hb => ?_⟩, fun hout => ?_, fun hx hxw hy hyh => ?_⟩
  · simp only [State.readByte, hs, hb]
  · simp only [State.readByte, hs, hb]
  · rw [hexec, State.getPx_outside h (mt Drawbuffer.inBounds_iff.mp hout)]
    rfl
  · have hq : d.inBounds x.toInt y.toInt = true := Drawbuffer.inBounds_iff.mpr ⟨hx, hxw, hy, hyh⟩
    refine ⟨fun hf => ?_, fun hf => ⟨_, ?_, toNat_packedOfBytes _ (n := d.fmt.bpp / 8) ?_⟩⟩
    · rw [hexec, State.getPx_mono1 h (q := (x.toInt, y.toInt)) hq hf]
      rfl
    · rw [hexec, State.getPx_bytes h (q := (x.toInt, y.toInt)) hq hf]
      rfl
    · have := d.fmt.bpp_le
      omega

/-- Settles O36: SET_PIXEL draws the one-point list. -/
theorem setPixelWritesOnePixel : Obligations.SetPixelWritesOnePixel := by
  intro s t d x y p hs ha
  have hexec : exec (.setPixel t x y p) s = .next ((s.setPx t x.toInt y.toInt p).respond [0]) :=
    (withLive_pass hs _).trans (onMemory_pass ha _)
  refine ⟨⟨_, hexec, drawn_putAll hs [(x.toInt, y.toInt)] p .overwrite⟩, fun hout => ?_⟩
  rw [hexec, State.setPx_outside (State.holds_of_slot hs) (mt Drawbuffer.inBounds_iff.mp hout)]

/-- Settles O39: the run of bytes written is the data's bytes, as many as the buffer has. -/
theorem loadStoresVerbatim : Obligations.LoadStoresVerbatim := by
  refine fun s t d n data hs => ⟨fun hn => (withLive_pass hs _).trans (if_pos hn), fun hn ha hwf => ?_⟩
  have h := State.holds_of_slot hs
  have hlen : ((unpackWords data).take n.toNat).length = d.byteLength := by
    rw [← hn]
    exact List.length_take_of_le (le_length_unpackWords hwf)
  have hfits : 0 + ((unpackWords data).take n.toNat).length ≤ d.byteLength := by rw [hlen, Nat.zero_add]
  obtain ⟨-, -, hresp, -⟩ := (s.memWrite_byteWrites t 0 ((unpackWords data).take n.toNat)).frame
  refine ⟨_, (withLive_pass hs _).trans ((if_neg (not_not.mpr hn)).trans (onMemory_pass ha _)),
    congrArg (· ++ [statusOk]) hresp, fun k hk => ?_,
    ((bufferFrame_memWrite h _ hfits).mono fun off hoff => by omega).respond _⟩
  refine (State.readByte_memWrite h _ hfits k).trans ((if_pos (by omega)).trans ?_)
  refine Eq.trans ?_ (wordByte_getD data k).symm
  rw [List.getD_eq_getElem?_getD, Nat.sub_zero, List.getElem?_take_of_lt (by omega), List.getD_eq_getElem?_getD]

/-- Settles O40: CLEAR draws every pixel of the buffer, each at least once. -/
theorem clearFillsEveryPixel : Obligations.ClearFillsEveryPixel := by
  refine fun s t d r g b a hs => ⟨fun hbad => ?_, fun hr0 hr hg0 hg hb0 hb ha0 ha haddr => ?_⟩
  · refine (withLive_pass hs _).trans (if_neg ?_)
    simp only [Bool.and_eq_true, channelInRange_iff]
    tauto
  · have hin : (channelInRange r && channelInRange g && channelInRange b && channelInRange a) = true := by
      simp only [Bool.and_eq_true, channelInRange_iff]
      tauto
    rw [← pix_wordByte hr0 hr hg0 hg hb0 hb ha0 ha]
    obtain ⟨hanswer, hpixels, hpadding, hframe⟩ := drawn_putAll hs d.pixels
      (pix (wordByte r 0) (wordByte g 0) (wordByte b 0) (wordByte a 0)) .overwrite
    refine ⟨_, (withLive_pass hs _).trans ((if_pos hin).trans (onMemory_pass haddr _)), hanswer,
      fun x y hq => (hpixels (x, y) hq).trans (iterate_const (quant d.fmt _) _ ?_), hpadding,
      hframe.mono fun _ ⟨_, _, hoff⟩ => hoff.lt_byteLength⟩
    exact (List.count_pos_iff.mpr (Drawbuffer.mem_pixels.mpr hq)).ne'

end Sys2Proof.Machine

/-! ## Proofs of the blend engine's family

R211's three cases are one: its floored mix is base's lane at opacity 0 and paint's at opacity 255 (`blend_eq`). So
R213's properties need only be shown of the mix of one lane. -/

namespace Sys2Proof.Machine

/-! ### One lane -/

/-- Two numbers mixed with weights that add up to 255 give a number between them (R213). -/
theorem mix_between (b p : ℕ) {a : ℕ} (ha : a ≤ 255) :
    min b p ≤ (b * (255 - a) + p * a) / 255 ∧ (b * (255 - a) + p * a) / 255 ≤ max b p := by
  have weights (c : ℕ) : c * 255 = c * (255 - a) + c * a := by rw [← Nat.mul_add, Nat.sub_add_cancel ha]
  constructor
  · rw [Nat.le_div_iff_mul_le (by decide), weights]
    exact Nat.add_le_add (Nat.mul_le_mul_right _ (min_le_left b p)) (Nat.mul_le_mul_right _ (min_le_right b p))
  · refine Nat.div_le_of_le_mul ?_
    calc b * (255 - a) + p * a
      _ ≤ max b p * (255 - a) + max b p * a :=
        Nat.add_le_add (Nat.mul_le_mul_right _ (le_max_left b p)) (Nat.mul_le_mul_right _ (le_max_right b p))
      _ = 255 * max b p := by rw [← weights, Nat.mul_comm]

/-- The mix of two bytes fits in a byte, so that a lane is never cut (R214). -/
theorem toNat_blendLane (b p a : Byte) :
    (blendLane b p a).toNat = (b.toNat * (255 - a.toNat) + p.toNat * a.toNat) / 255 := by
  obtain ⟨-, hle⟩ := mix_between b.toNat p.toNat (Nat.le_of_lt_succ a.isLt)
  exact (BitVec.toNat_ofNat ..).trans (Nat.mod_eq_of_lt (hle.trans_lt (max_lt b.isLt p.isLt)))

theorem blendLane_between (b p a : Byte) :
    min b.toNat p.toNat ≤ (blendLane b p a).toNat ∧ (blendLane b p a).toNat ≤ max b.toNat p.toNat := by
  rw [toNat_blendLane]
  exact mix_between _ _ (Nat.le_of_lt_succ a.isLt)

@[simp] theorem blendLane_self (b a : Byte) : blendLane b b a = b := by
  obtain ⟨hmin, hmax⟩ := blendLane_between b b a
  rw [min_self] at hmin
  rw [max_self] at hmax
  exact BitVec.eq_of_toNat_eq (le_antisymm hmax hmin)

@[simp] theorem blendLane_zero (b p : Byte) : blendLane b p 0 = b := by
  refine BitVec.eq_of_toNat_eq ?_
  simp [toNat_blendLane]

@[simp] theorem blendLane_opaque (b p : Byte) : blendLane b p 255 = p := by
  refine BitVec.eq_of_toNat_eq ?_
  simp [toNat_blendLane]

/-! ### The blend of two pixels -/

section
variable {base paint : Pixel}

theorem blend_of_transparent (h : pixA paint = 0) : blend base paint = base :=
  if_pos h

theorem blend_of_opaque (h : pixA paint = 255) :
    blend base paint = pix (pixR paint) (pixG paint) (pixB paint) (pixA base) :=
  (if_neg (h ▸ by decide)).trans (if_pos h)

variable (base paint)

/-- The general case of R211 gives all three (R213). -/
theorem blend_eq :
    blend base paint = pix (blendLane (pixR base) (pixR paint) (pixA paint))
      (blendLane (pixG base) (pixG paint) (pixA paint)) (blendLane (pixB base) (pixB paint) (pixA paint))
      (pixA base) := by
  by_cases h0 : pixA paint = 0
  · rw [blend_of_transparent h0, h0, blendLane_zero, blendLane_zero, blendLane_zero, pix_channels]
  · by_cases h255 : pixA paint = 255
    · rw [blend_of_opaque h255, h255, blendLane_opaque, blendLane_opaque, blendLane_opaque]
    · exact (if_neg h0).trans (if_neg h255)

@[simp] theorem pixR_blend : pixR (blend base paint) = blendLane (pixR base) (pixR paint) (pixA paint) := by
  rw [blend_eq, pixR_pix]

@[simp] theorem pixG_blend : pixG (blend base paint) = blendLane (pixG base) (pixG paint) (pixA paint) := by
  rw [blend_eq, pixG_pix]

@[simp] theorem pixB_blend : pixB (blend base paint) = blendLane (pixB base) (pixB paint) (pixA paint) := by
  rw [blend_eq, pixB_pix]

@[simp] theorem pixA_blend : pixA (blend base paint) = pixA base := by
  rw [blend_eq, pixA_pix]

/-- The three colour lanes are mixed alike. -/
theorem lane_blend {c : Pixel → Byte} (hc : c = pixR ∨ c = pixG ∨ c = pixB) :
    c (blend base paint) = blendLane (c base) (c paint) (pixA paint) := by
  obtain rfl | rfl | rfl := hc
  · exact pixR_blend base paint
  · exact pixG_blend base paint
  · exact pixB_blend base paint

end

/-! ### The obligations -/

/-- Settles O28: BLEND is one answer, and each of R211's cases is a law of blend. -/
theorem blendCompletes : Obligations.BlendCompletes := by
  refine fun s base paint => ⟨rfl, fun h0 => blend_of_transparent (BitVec.eq_of_toNat_eq h0),
    fun h255 => blend_of_opaque (BitVec.eq_of_toNat_eq h255), fun _ _ => ⟨?_, ?_, ?_, pixA_blend base paint⟩⟩
  · rw [pixR_blend, toNat_blendLane]
  · rw [pixG_blend, toNat_blendLane]
  · rw [pixB_blend, toNat_blendLane]

/-- Settles O29: the laws of one lane, at each lane. -/
theorem blendProperties : Obligations.BlendProperties := by
  refine fun base paint => ⟨pixA_blend base paint, fun c hc => ?_, fun hr hg hb => ?_⟩
  · rw [lane_blend base paint hc]
    exact ⟨toNat_blendLane .., blendLane_between ..⟩
  · rw [blend_eq, hr, hg, hb, blendLane_self, blendLane_self, blendLane_self, pix_channels]

end Sys2Proof.Machine

/-! ## Proofs of the line rasterizers' family

One turn of R220's loop moves each coordinate exactly when the closed form's point moves (`lineError_test_iff`), so the
walk is the list of the closed form's points (`bresenham_eq_map`), and R222 is read off that list. The anti-aliased line
rests on three facts: the clamped t of R230 gives the nearest point of the segment (`offsetSq_footPart_le`), R232's test
for j is j <= A * (1/2 - (sqrt SQ - r)) (`coverageFill_test_iff`), and one pass goes over every pixel once
(`drawnAa_blendCoverage`). -/

namespace Sys2Proof.Machine

/-! ### One coordinate of the walk -/

/-- How far point i of a walk of M steps stands from its start in a coordinate in which the ends are len apart. -/
def axisOffset (len M i : ℕ) : ℕ := (2 * i * len + M) / (2 * M)

section
variable {len M i : ℕ}

theorem le_axisOffset_iff (hM : 0 < M) {k : ℕ} : k ≤ axisOffset len M i ↔ k * (2 * M) ≤ 2 * i * len + M :=
  Nat.le_div_iff_mul_le (by omega)

@[simp] theorem axisOffset_zero : axisOffset len M 0 = 0 := by
  simp only [axisOffset, Nat.mul_zero, Nat.zero_mul, Nat.zero_add, Nat.div_eq_zero_iff]
  omega

@[simp] theorem axisOffset_zero_len : axisOffset 0 M i = 0 := by
  simp only [axisOffset, Nat.mul_zero, Nat.zero_add, Nat.div_eq_zero_iff]
  omega

theorem axisOffset_end (hlen : len ≤ M) : axisOffset len M M = len := by
  rcases Nat.eq_zero_or_pos M with rfl | hM
  · rw [axisOffset_zero, Nat.le_zero.mp hlen]
  · exact Nat.div_eq_of_lt_le (by linarith) (by linarith)

/-- In the longer coordinate the offset is the number of turns. -/
theorem axisOffset_self (hM : 0 < M) : axisOffset M M i = i :=
  Nat.div_eq_of_lt_le (by linarith) (by linarith)

theorem lt_axisOffset_succ (hM : 0 < M) : 2 * i * len + M < (axisOffset len M i + 1) * (2 * M) :=
  not_le.mp fun h => (Nat.lt_succ_self _).not_ge ((le_axisOffset_iff hM).mpr h)

/-- A coordinate moves by one place a turn, or not at all. -/
theorem axisOffset_succ (hM : 0 < M) (hlen : len ≤ M) :
    axisOffset len M (i + 1) =
      axisOffset len M i + if axisOffset len M i + 1 ≤ axisOffset len M (i + 1) then 1 else 0 := by
  have hmono : axisOffset len M i ≤ axisOffset len M (i + 1) := Nat.div_le_div_right (by linarith)
  have hstep : ¬ axisOffset len M i + 2 ≤ axisOffset len M (i + 1) := by
    rw [le_axisOffset_iff hM]
    linarith [lt_axisOffset_succ (len := len) (i := i) hM]
  split <;> omega

end

/-- The error term when the coordinates have come to point i (R220). -/
def lineError (a b M i : ℕ) : ℤ := a * (axisOffset b M i + 1) - b * (axisOffset a M i + 1)

theorem lineError_swap (a b M i : ℕ) : lineError b a M i = -lineError a b M i := by
  simp only [lineError, neg_sub]

section
variable {a b M : ℕ} (hM : 0 < M) (hab : M = a ∧ b ≤ a ∨ M = b ∧ a ≤ b)
include hM hab

/-- The error term's test moves a coordinate exactly when the closed form moves it: in the longer coordinate always, in
the shorter one when its next offset is due (R220). -/
theorem lineError_test_iff (i : ℕ) :
    -(b : ℤ) ≤ 2 * lineError a b M i ↔ axisOffset a M i + 1 ≤ axisOffset a M (i + 1) := by
  rw [lineError]
  rcases hab with ⟨rfl, hba⟩ | ⟨rfl, hab⟩
  · have hlt := lt_axisOffset_succ (len := b) (i := i) hM
    rw [axisOffset_self hM, axisOffset_self hM]
    zify at hlt hba
    exact iff_of_true (by linarith) le_rfl
  · rw [le_axisOffset_iff hM, axisOffset_self hM]
    zify
    constructor <;> intro <;> linarith

theorem axisOffset_next (i : ℕ) :
    (axisOffset a M (i + 1) : ℤ) = axisOffset a M i + if -(b : ℤ) ≤ 2 * lineError a b M i then 1 else 0 := by
  simp only [lineError_test_iff hM hab]
  exact_mod_cast axisOffset_succ hM (by omega)

/-- The other coordinate's test is the mirror image of the first's. -/
theorem axisOffset_next_mirror (i : ℕ) :
    (axisOffset b M (i + 1) : ℤ) = axisOffset b M i + if 2 * lineError a b M i ≤ a then 1 else 0 := by
  have hmirror : 2 * lineError a b M i ≤ a ↔ -(a : ℤ) ≤ 2 * lineError b a M i := by
    rw [lineError_swap a b]
    omega
  simp only [hmirror]
  exact axisOffset_next hM hab.symm i

theorem lineError_next (i : ℕ) :
    lineError a b M (i + 1) = lineError a b M i + (if -(b : ℤ) ≤ 2 * lineError a b M i then -(b : ℤ) else 0) +
      if 2 * lineError a b M i ≤ a then (a : ℤ) else 0 := by
  rw [lineError, axisOffset_next hM hab, axisOffset_next_mirror hM hab, lineError]
  split <;> split <;> ring

end

/-! ### The walk's points -/

/-- The direction a coordinate moves in from u to v (R220). -/
def lineDir (u v : ℤ) : ℤ := if u < v then 1 else -1

/-- A coordinate of point i of a walk of M steps from u to v, in closed form. -/
def axisPlace (u v : ℤ) (M i : ℕ) : ℤ := u + (v - u).sign * axisOffset (v - u).natAbs M i

section
variable (u v : ℤ) {M i : ℕ}

theorem lineDir_cases : lineDir u v = 1 ∨ lineDir u v = -1 := by
  rw [lineDir]
  split <;> simp

theorem lineDir_mul_natAbs : u + lineDir u v * (v - u).natAbs = v := by
  rw [lineDir]
  split <;> omega

/-- Where the ends agree in a coordinate, its direction does not matter: the offset stays 0. -/
theorem axisPlace_eq : axisPlace u v M i = u + lineDir u v * axisOffset (v - u).natAbs M i := by
  rw [axisPlace, lineDir]
  rcases lt_trichotomy u v with h | rfl | h
  · rw [if_pos h, Int.sign_eq_one_of_pos (sub_pos.mpr h)]
  · simp
  · rw [if_neg h.not_gt, Int.sign_eq_neg_one_of_neg (sub_neg.mpr h)]

theorem axisPlace_inj {j : ℕ} :
    axisPlace u v M i = axisPlace u v M j ↔ axisOffset (v - u).natAbs M i = axisOffset (v - u).natAbs M j := by
  rw [axisPlace_eq, axisPlace_eq]
  rcases lineDir_cases u v with h | h <;> rw [h] <;> omega

@[simp] theorem axisPlace_zero : axisPlace u v M 0 = u := by
  simp [axisPlace]

theorem axisPlace_step (hM : 0 < M) (hlen : (v - u).natAbs ≤ M) :
    (axisPlace u v M (i + 1) - axisPlace u v M i).natAbs ≤ 1 := by
  have hmove := axisOffset_succ (i := i) hM hlen
  rw [axisPlace_eq, axisPlace_eq]
  rcases lineDir_cases u v with h | h <;> rw [h] <;> split at hmove <;> omega

theorem axisPlace_end (hM : (v - u).natAbs ≤ M) : axisPlace u v M M = v := by
  rw [axisPlace_eq, axisOffset_end hM, lineDir_mul_natAbs]

end

/-- The number of steps of the exact line (R222). -/
def lineSteps (x0 y0 x1 y1 : ℤ) : ℕ := max (x1 - x0).natAbs (y1 - y0).natAbs

/-- Point i of the exact line, in closed form. -/
def linePoint (x0 y0 x1 y1 : ℤ) (i : ℕ) : Point :=
  (axisPlace x0 x1 (lineSteps x0 y0 x1 y1) i, axisPlace y0 y1 (lineSteps x0 y0 x1 y1) i)

section
variable (x0 y0 x1 y1 : ℤ)

theorem lineSteps_cases :
    lineSteps x0 y0 x1 y1 = (x1 - x0).natAbs ∧ (y1 - y0).natAbs ≤ (x1 - x0).natAbs ∨
      lineSteps x0 y0 x1 y1 = (y1 - y0).natAbs ∧ (x1 - x0).natAbs ≤ (y1 - y0).natAbs := by
  rw [lineSteps]
  omega

@[simp] theorem linePoint_zero : linePoint x0 y0 x1 y1 0 = (x0, y0) := by
  simp [linePoint]

theorem linePoint_end : linePoint x0 y0 x1 y1 (lineSteps x0 y0 x1 y1) = (x1, y1) :=
  Prod.ext (axisPlace_end _ _ (le_max_left ..)) (axisPlace_end _ _ (le_max_right ..))

variable {x0 y0 x1 y1}

/-- The points are told apart by their longer coordinate. -/
theorem linePoint_injOn {i j : ℕ} (hi : i ≤ lineSteps x0 y0 x1 y1) (hj : j ≤ lineSteps x0 y0 x1 y1)
    (h : linePoint x0 y0 x1 y1 i = linePoint x0 y0 x1 y1 j) : i = j := by
  simp only [linePoint, Prod.mk.injEq, axisPlace_inj] at h
  rcases Nat.eq_zero_or_pos (lineSteps x0 y0 x1 y1) with h0 | hM
  · omega
  · rcases lineSteps_cases x0 y0 x1 y1 with ⟨hlong, -⟩ | ⟨hlong, -⟩
    · rw [← hlong, axisOffset_self hM, axisOffset_self hM] at h
      exact h.1
    · rw [← hlong, axisOffset_self hM, axisOffset_self hM] at h
      exact h.2

/-- The loop's test ends it at the last point and not before. -/
theorem linePoint_eq_end_iff {i : ℕ} (hi : i ≤ lineSteps x0 y0 x1 y1) :
    (linePoint x0 y0 x1 y1 i).1 = x1 ∧ (linePoint x0 y0 x1 y1 i).2 = y1 ↔ i = lineSteps x0 y0 x1 y1 := by
  rw [← Prod.ext_iff (y := (x1, y1)), ← linePoint_end x0 y0]
  exact ⟨linePoint_injOn hi le_rfl, congrArg _⟩

theorem linePoint_step (i : ℕ) (hi : i < lineSteps x0 y0 x1 y1) :
    ((linePoint x0 y0 x1 y1 (i + 1)).1 - (linePoint x0 y0 x1 y1 i).1).natAbs ≤ 1 ∧
      ((linePoint x0 y0 x1 y1 (i + 1)).2 - (linePoint x0 y0 x1 y1 i).2).natAbs ≤ 1 := by
  have hM : 0 < lineSteps x0 y0 x1 y1 := by omega
  exact ⟨axisPlace_step _ _ hM (le_max_left ..), axisPlace_step _ _ hM (le_max_right ..)⟩

variable (x0 y0 x1 y1)

/-- The loop of R220, entered at point i with n points to go, walks the closed form's points. -/
theorem bresenhamWalk_eq_map {n fuel i : ℕ} (hi : i + n = lineSteps x0 y0 x1 y1) (hfuel : n ≤ fuel) :
    bresenhamWalk x1 y1 (x1 - x0).natAbs (-(y1 - y0).natAbs) (lineDir x0 x1) (lineDir y0 y1) fuel
        (linePoint x0 y0 x1 y1 i).1 (linePoint x0 y0 x1 y1 i).2
        (lineError (x1 - x0).natAbs (y1 - y0).natAbs (lineSteps x0 y0 x1 y1) i) =
      (List.range' i (n + 1)).map (linePoint x0 y0 x1 y1) := by
  induction n generalizing i fuel with
  | zero =>
    cases fuel with
    | zero => rfl
    | succ fuel => exact if_pos ((linePoint_eq_end_iff (by omega)).mpr (by omega))
  | succ n ih =>
    obtain ⟨fuel, rfl⟩ : ∃ f, fuel = f + 1 := ⟨fuel - 1, by omega⟩
    have hM : 0 < lineSteps x0 y0 x1 y1 := by omega
    have hlong := lineSteps_cases x0 y0 x1 y1
    have hrest := ih (fuel := fuel) (i := i + 1) (by omega) (by omega)
    rw [bresenhamWalk, if_neg ((linePoint_eq_end_iff (by omega)).not.mpr (by omega)), List.range'_succ, List.map_cons,
      ← hrest]
    simp only [linePoint, axisPlace_eq, axisOffset_next hM hlong, axisOffset_next_mirror hM hlong,
      lineError_next hM hlong]
    congr 2
    · split <;> ring
    · split <;> ring

/-- The exact line's walk is the closed form's points in order (R220, R222). -/
theorem bresenham_eq_map :
    bresenham x0 y0 x1 y1 = (List.range (lineSteps x0 y0 x1 y1 + 1)).map (linePoint x0 y0 x1 y1) := by
  rw [List.range_eq_range', ← bresenhamWalk_eq_map x0 y0 x1 y1 (Nat.zero_add _)
    (fuel := (((x1 - x0).natAbs : ℤ) - -((y1 - y0).natAbs : ℤ)).toNat) (by rw [lineSteps]; omega)]
  simp only [linePoint_zero, lineError, axisOffset_zero, bresenham, lineDir]
  congr 1
  push_cast
  ring

end

/-! ### A pass over a buffer's pixels -/

theorem nodup_intRange (a b : ℤ) : (intRange a b).Nodup :=
  List.nodup_range.map fun j k h => by simpa using h

theorem nodup_rasterBox (xa xb ya yb : ℤ) : (rasterBox xa xb ya yb).Nodup := by
  refine List.nodup_flatMap.mpr ⟨fun y _ => (nodup_intRange xa xb).map (Prod.mk_left_injective y), ?_⟩
  refine (nodup_intRange ya yb).imp fun hne q hq hq' => hne ?_
  obtain ⟨x, -, rfl⟩ := List.mem_map.mp hq
  obtain ⟨x', -, heq⟩ := List.mem_map.mp hq'
  exact (congrArg Prod.snd heq).symm

theorem Drawbuffer.nodup_pixels (d : Drawbuffer) : d.pixels.Nodup :=
  nodup_rasterBox ..

/-- What a pixel whose coverage-weighted alpha is k becomes in a buffer of format f (R231). -/
def coverPaint (f : Format) (color : Pixel) (k : ℕ) (base : Pixel) : Pixel :=
  if 0 < k then quant f (blend base (pix (pixR color) (pixG color) (pixB color) (BitVec.ofNat 8 k))) else base

section
variable {s : State} {t : Handle} {d : Drawbuffer} (color : Pixel) (k : Point → ℕ)

theorem painted_blendCoverage (h : s.holds t d) (pts : List Point) :
    Painted t d (fun q => q ∈ pts ∧ 0 < k q)
      (fun q => (coverPaint d.fmt color (k q))^[pts.count q]) s (s.blendCoverage t pts color k) := by
  refine painted_foldl (fun s q hs => ?_) pts h
  by_cases hk : 0 < k q
  · simp only [coverPaint, if_pos hk]
    exact (painted_setPx hs q _).mono fun q' hq' => ⟨hq', hq' ▸ hk⟩
  · simp only [coverPaint, if_neg hk, ite_self]
    exact painted_refl hs

/-- An anti-aliased command that goes over the whole buffer and answers OK (R231, R281). -/
theorem drawnAa_blendCoverage (hs : s.slot t = some d) :
    DrawnAa s ((s.blendCoverage t d.pixels color k).respond [statusOk]) t d color k := by
  obtain ⟨hpixels, hpadding, hframe⟩ := painted_blendCoverage color k (State.holds_of_slot hs) d.pixels
  obtain ⟨-, -, hresp, -⟩ := (s.blendCoverage_byteWrites t d.pixels color k).frame
  refine ⟨congrArg (· ++ [statusOk]) hresp, fun q hq => (hpixels q hq).trans ?_, hpadding,
    (hframe.mono fun off ⟨q, ⟨_, hk⟩, hoff⟩ => ⟨q, hk, hoff⟩).respond _⟩
  rw [List.count_eq_one_of_mem d.nodup_pixels (Drawbuffer.mem_pixels.mpr hq)]
  rfl

end

/-! ### The distance to a segment -/

/-- c clamped to 0 .. 1 lies, from every number of 0 .. 1, on the way to c. -/
theorem sub_clamp_mul_nonneg (c : ℚ) {u : ℚ} (h0 : 0 ≤ u) (h1 : u ≤ 1) :
    0 ≤ (u - max 0 (min c 1)) * (max 0 (min c 1) - c) := by
  rcases le_total c 0 with hc | hc
  · rw [max_eq_left ((min_le_left c 1).trans hc)]
    nlinarith
  · rcases le_total c 1 with hc1 | hc1
    · rw [min_eq_left hc1, max_eq_right hc, sub_self, mul_zero]
    · rw [min_eq_right hc1, max_eq_right zero_le_one]
      nlinarith

/-- The squared distance from a sample point, at (vx, vy) from the segment's start, to the segment's point at the part u
of the way (dx, dy). -/
def offsetSq (vx vy dx dy u : ℚ) : ℚ := (vx - u * dx) ^ 2 + (vy - u * dy) ^ 2

/-- The foot's part of the way: where the perpendicular meets the line, clamped to the segment (R230). -/
def footPart (vx vy dx dy : ℚ) : ℚ := max 0 (min ((vx * dx + vy * dy) / (dx * dx + dy * dy)) 1)

section
variable (vx vy dx dy : ℚ)

theorem footPart_mem : 0 ≤ footPart vx vy dx dy ∧ footPart vx vy dx dy ≤ 1 :=
  ⟨le_max_left .., max_le zero_le_one (min_le_right ..)⟩

/-- From the foot t to u the squared distance grows by L2 * (u - t)^2 and by a term that the clamp keeps from being
negative. -/
theorem offsetSq_footPart_le {u : ℚ} (h0 : 0 ≤ u) (h1 : u ≤ 1) :
    offsetSq vx vy dx dy (footPart vx vy dx dy) ≤ offsetSq vx vy dx dy u := by
  have hL2 : 0 ≤ dx * dx + dy * dy := add_nonneg (mul_self_nonneg dx) (mul_self_nonneg dy)
  have hfoot : (vx * dx + vy * dy) / (dx * dx + dy * dy) * (dx * dx + dy * dy) = vx * dx + vy * dy := by
    refine div_mul_cancel_of_imp fun h => ?_
    obtain ⟨rfl, rfl⟩ := mul_self_add_mul_self_eq_zero.mp h
    ring
  have hclamp := sub_clamp_mul_nonneg ((vx * dx + vy * dy) / (dx * dx + dy * dy)) h0 h1
  rw [← footPart] at hclamp
  generalize footPart vx vy dx dy = v at *
  generalize (vx * dx + vy * dy) / (dx * dx + dy * dy) = c at *
  calc offsetSq vx vy dx dy v
    _ ≤ offsetSq vx vy dx dy v + (dx * dx + dy * dy) * ((u - v) ^ 2 + 2 * ((u - v) * (v - c))) :=
      le_add_of_nonneg_right (mul_nonneg hL2 (add_nonneg (sq_nonneg _) (mul_nonneg zero_le_two hclamp)))
    _ = offsetSq vx vy dx dy u := by
      simp only [offsetSq]
      linear_combination 2 * (v - u) * hfoot

end

/-- R230's two cases are one: where the ends are the same, every part of the way is. -/
theorem dist2Seg_eq (x0 y0 x1 y1 px py : ℤ) :
    dist2Seg x0 y0 x1 y1 px py =
      offsetSq (px - x0) (py - y0) (x1 - x0) (y1 - y0) (footPart (px - x0) (py - y0) (x1 - x0) (y1 - y0)) := by
  simp only [dist2Seg]
  split
  case isTrue h =>
    obtain ⟨hx, hy⟩ := mul_self_add_mul_self_eq_zero.mp h
    have hx' : (x1 : ℚ) - x0 = 0 := by exact_mod_cast hx
    have hy' : (y1 : ℚ) - y0 = 0 := by exact_mod_cast hy
    rw [hx', hy', offsetSq]
    push_cast
    ring
  case isFalse =>
    have hL2 : 0 ≤ (x1 - x0) * (x1 - x0) + (y1 - y0) * (y1 - y0) :=
      add_nonneg (mul_self_nonneg _) (mul_self_nonneg _)
    have hcast : (((x1 - x0) * (x1 - x0) + (y1 - y0) * (y1 - y0)).toNat : ℚ) =
        (((x1 - x0) * (x1 - x0) + (y1 - y0) * (y1 - y0) : ℤ) : ℚ) := by
      exact_mod_cast Int.toNat_of_nonneg hL2
    rw [Rat.mkRat_eq_div, hcast, offsetSq, footPart]
    push_cast
    rfl

/-! ### Coverage -/

/-- The greatest j that passes, where all below one that passes pass too. -/
theorem le_largestUpTo_iff {ok : ℕ → Bool} (hdown : ∀ i j, i ≤ j → ok j = true → ok i = true) {n k : ℕ} :
    k ≤ largestUpTo ok n ↔ k = 0 ∨ k ≤ n ∧ ok k = true := by
  induction n with
  | zero => rw [largestUpTo]; omega
  | succ n ih =>
    rw [largestUpTo]
    split
    case isTrue hpass => exact ⟨fun hk => .inr ⟨hk, hdown k _ hk hpass⟩, by omega⟩
    case isFalse hfail =>
      rw [ih, Nat.le_succ_iff, or_and_right, or_iff_left (b := k = n + 1 ∧ _)]
      rintro ⟨rfl, hpass⟩
      exact hfail hpass

/-- R232, R280: a search whose test is j ≤ c * A finds the floor of A times c clamped to 0 .. 1. -/
theorem largestUpTo_eq_floor {ok : ℕ → Bool} {c : ℝ} {A : ℕ} (hok : ∀ j : ℕ, ok j = true ↔ (j : ℝ) ≤ c * A) :
    ((largestUpTo ok A : ℕ) : ℤ) = ⌊max 0 (min c 1) * (A : ℝ)⌋ := by
  have hdown : ∀ i j, i ≤ j → ok j = true → ok i = true := fun i j hij hj =>
    (hok i).mpr ((Nat.cast_le.mpr hij).trans ((hok j).mp hj))
  have hnonneg : 0 ≤ max 0 (min c 1) * (A : ℝ) := mul_nonneg (le_max_left ..) A.cast_nonneg
  rw [← Int.natCast_floor_eq_floor hnonneg, Nat.cast_inj]
  refine eq_of_forall_le_iff fun k => ?_
  rw [le_largestUpTo_iff hdown, Nat.le_floor_iff hnonneg, max_mul_of_nonneg _ _ A.cast_nonneg,
    min_mul_of_nonneg _ _ A.cast_nonneg, zero_mul, one_mul, le_max_iff, le_min_iff, hok, and_comm]
  norm_cast
  rw [Nat.le_zero]

/-- R232's test, cleared of denominators, against the real square root. -/
theorem coverageFill_test_iff {A R j : ℕ} {sq : ℚ} (hsq : 0 ≤ sq) :
    (0 ≤ (A * (128 + R) : ℤ) - 256 * j ∧
        (A * A * sq.num * 65536 : ℤ) ≤ ((A * (128 + R) : ℤ) - 256 * j) ^ 2 * sq.den) ↔
      (j : ℝ) ≤ (1 / 2 - (√(sq : ℝ) - R / 256)) * A := by
  generalize hm : (A * (128 + R) : ℤ) - 256 * j = m
  have hm' : (A * (128 + R) : ℝ) - 256 * j = m := by exact_mod_cast hm
  have hnum : (256 * A * √(sq : ℝ)) ^ 2 * sq.den = (A * A * sq.num * 65536 : ℤ) := by
    have hfrac : (sq : ℝ) * sq.den = sq.num := by exact_mod_cast Rat.mul_den_eq_num sq
    rw [mul_pow, Real.sq_sqrt (by exact_mod_cast hsq)]
    push_cast
    linear_combination 65536 * (A : ℝ) ^ 2 * hfrac
  have hden : (0 : ℝ) < sq.den := by exact_mod_cast sq.pos
  have hroot : 0 ≤ 256 * A * √(sq : ℝ) := by positivity
  calc 0 ≤ m ∧ (A * A * sq.num * 65536 : ℤ) ≤ m ^ 2 * sq.den
    _ ↔ (0 : ℝ) ≤ m ∧ (256 * A * √(sq : ℝ)) ^ 2 ≤ (m : ℝ) ^ 2 := by
      rw [← mul_le_mul_iff_left₀ (b := (256 * A * √(sq : ℝ)) ^ 2) hden, hnum]
      norm_cast
    _ ↔ 256 * A * √(sq : ℝ) ≤ m :=
      ⟨fun ⟨h0, hle⟩ => (sq_le_sq₀ hroot h0).mp hle, fun h => ⟨hroot.trans h, pow_le_pow_left₀ hroot h 2⟩⟩
    _ ↔ (j : ℝ) ≤ (1 / 2 - (√(sq : ℝ) - R / 256)) * A := by
      rw [← hm']
      constructor <;> intro <;> linarith

theorem coverageFill_eq_floor (A R : ℕ) {sq : ℚ} (hsq : 0 ≤ sq) :
    ((coverageFill A R sq : ℕ) : ℤ) = ⌊max 0 (min (1 / 2 - (√(sq : ℝ) - (R : ℝ) / 256)) 1) * (A : ℝ)⌋ := by
  refine largestUpTo_eq_floor fun j => ?_
  rw [decide_eq_true_iff]
  exact coverageFill_test_iff hsq

/-- Positive coverage needs sqrt SQ < r + 1/2 (R233). -/
theorem lt_of_coverageFill_pos {A R : ℕ} {sq : ℚ} (hsq : 0 ≤ sq) (h : 0 < coverageFill A R sq) :
    sq < (1 / 2 + R / 256) ^ 2 := by
  have hone : (1 : ℝ) ≤ max 0 (min (1 / 2 - (√(sq : ℝ) - (R : ℝ) / 256)) 1) * A := by
    have hfloor := coverageFill_eq_floor A R hsq
    exact_mod_cast Int.le_floor.mp ((Int.ofNat_le.mpr h).trans_eq hfloor)
  have hpos : 0 < 1 / 2 - (√(sq : ℝ) - (R : ℝ) / 256) := by
    by_contra hneg
    rw [max_eq_left ((min_le_left ..).trans (not_lt.mp hneg)), zero_mul] at hone
    linarith
  have hroot : √(sq : ℝ) < 1 / 2 + R / 256 := by linarith
  rw [Real.sqrt_lt' (by positivity)] at hroot
  rw [← Rat.cast_lt (K := ℝ)]
  push_cast
  exact hroot

/-! ### The box around a segment -/

/-- In one coordinate: an integer less than r + 1/2 from a point between two integers lies between them widened by r and
rounded outward (R233). -/
theorem mem_box_of_near {p p0 p1 : ℤ} {u r : ℚ} (h0 : 0 ≤ u) (h1 : u ≤ 1)
    (hnear : |(p : ℚ) - p0 - u * (p1 - p0)| < 1 / 2 + r) :
    ⌊((min p0 p1 : ℤ) : ℚ) - r⌋ ≤ p ∧ p ≤ ⌈((max p0 p1 : ℤ) : ℚ) + r⌉ := by
  rw [Int.floor_le_iff, Int.le_ceil_iff]
  obtain ⟨hlo, hhi⟩ := abs_lt.mp hnear
  have hmin := Convex.min_le_combo (p0 : ℚ) p1 (sub_nonneg.mpr h1) h0 (sub_add_cancel 1 u)
  have hmax := Convex.combo_le_max (p0 : ℚ) p1 (sub_nonneg.mpr h1) h0 (sub_add_cancel 1 u)
  simp only [smul_eq_mul] at hmin hmax
  push_cast
  constructor <;> linarith

end Sys2Proof.Machine

namespace Sys2Proof
open Machine

/-! ### The obligations

They stand outside `Machine`, where O41's name is that of the model's loop. -/

/-- Settles O41: R222 read off the list of the closed form's points. -/
theorem bresenhamWalk : Obligations.BresenhamWalk := by
  intro x0 y0 x1 y1
  rw [bresenham_eq_map, ← lineSteps]
  refine ⟨by simp, fun i hi => ?_, ?_, ?_, ?_, ?_⟩
  · rw [List.getElem?_map, List.getElem?_range (Nat.lt_succ_of_le hi)]
    rfl
  · refine List.nodup_range.map_on fun i hi j hj => linePoint_injOn ?_ ?_
    · exact Nat.le_of_lt_succ (List.mem_range.mp hi)
    · exact Nat.le_of_lt_succ (List.mem_range.mp hj)
  · simp [List.head?_range]
  · rw [List.range_succ, List.map_append, List.map_singleton, List.getLast?_concat, linePoint_end]
  · rw [List.isChain_map, List.isChain_range_succ]
    exact linePoint_step

/-- Settles O42: both commands put one paint on the walk's points. -/
theorem lineDraws : Obligations.LineDraws := by
  intro s t d x0 y0 x1 y1 color hs ha pts
  exact ⟨⟨_, (withLive_pass hs _).trans (onMemory_pass ha _), drawn_putAll hs pts color .overwrite⟩,
    ⟨_, (withLive_pass hs _).trans (onMemory_pass ha _), drawn_putAll hs pts color .alphaBlend⟩⟩

/-- Settles O43: the foot of the perpendicular has the least distance. -/
theorem segmentDistanceIsLeast : Obligations.SegmentDistanceIsLeast := by
  intro x0 y0 x1 y1 px py at2
  rw [dist2Seg_eq]
  obtain ⟨h0, h1⟩ := footPart_mem (px - x0) (py - y0) (x1 - x0) (y1 - y0)
  exact ⟨⟨_, h0, h1, rfl⟩, fun u hu0 hu1 => offsetSq_footPart_le _ _ _ _ hu0 hu1⟩

/-- Settles O44: R232's test holds of the j up to the real-valued coverage. -/
theorem fillCoverageIsTheRealFloor : Obligations.FillCoverageIsTheRealFloor :=
  fun alpha radius256 _ hsq => coverageFill_eq_floor alpha radius256 hsq

/-- Settles O45: LINE_AA is one pass over the buffer's pixels. -/
theorem lineAaDraws : Obligations.LineAaDraws :=
  fun _ _ _ _ _ _ _ _ color hs ha =>
    ⟨_, (withLive_pass hs _).trans (onMemory_pass ha _), drawnAa_blendCoverage color _ hs⟩

/-- Settles O46: a covered pixel is nearer than r + 1/2 to a point of the segment, so it is in each coordinate. -/
theorem lineAaCoverageLiesInTheBox : Obligations.LineAaCoverageLiesInTheBox := by
  intro alpha radius256 x0 y0 x1 y1 px py hcov
  rw [dist2Seg_eq] at hcov
  obtain ⟨h0, h1⟩ := footPart_mem (px - x0) (py - y0) (x1 - x0) (y1 - y0)
  have hnear := lt_of_coverageFill_pos (by rw [offsetSq]; positivity) hcov
  rw [offsetSq] at hnear
  have hr : (0 : ℚ) ≤ 1 / 2 + radius256 / 256 := by positivity
  obtain ⟨hx0, hx1⟩ := mem_box_of_near h0 h1
    (abs_lt_of_sq_lt_sq ((le_add_of_nonneg_right (sq_nonneg _)).trans_lt hnear) hr)
  obtain ⟨hy0, hy1⟩ := mem_box_of_near h0 h1
    (abs_lt_of_sq_lt_sq ((le_add_of_nonneg_left (sq_nonneg _)).trans_lt hnear) hr)
  exact ⟨hx0, hx1, hy0, hy1⟩

end Sys2Proof

/-! ## Proofs of the shape rasterizers' family

Boxes and triangle parts are rows of runs (`rowsBetween`), whose raster order and counts are shown once. A triangle with
sorted vertices is two parts, each between a short edge and the long one, so that flat bottom, flat top and split are
one statement (`triSpans_parts`). R270's loop walks along the arc of one octant (`mem_midpointWalk`), and the outline is
that arc reflected (`mem_circleOutline`). R280's ring tests say that two lengths are close (`ringTests_iff`). -/

namespace Sys2Proof.Machine

/-! ### Raster order -/

theorem rasterLt_trans {p q r : Point} (h : rasterLt p q) (h' : rasterLt q r) : rasterLt p r := by
  unfold rasterLt at *
  omega

theorem nodup_of_pairwise_rasterLt {pts : List Point} (h : pts.Pairwise rasterLt) : pts.Nodup :=
  h.imp fun hlt heq => by
    subst heq
    simp [rasterLt] at hlt

theorem pairwise_lt_intRange (a b : ℤ) : (intRange a b).Pairwise (· < ·) :=
  List.pairwise_lt_range.map _ fun _ _ h => add_lt_add_right (Int.ofNat_lt.mpr h) a

/-- The points of rows ya..yb, on row y from xa y to xb y, in raster order. -/
def rowsBetween (xa xb : ℤ → ℤ) (ya yb : ℤ) : List Point :=
  (intRange ya yb).flatMap fun y => (intRange (xa y) (xb y)).map fun x => (x, y)

section
variable (xa xb : ℤ → ℤ) (ya yb : ℤ)

theorem mem_rowsBetween {x y : ℤ} :
    (x, y) ∈ rowsBetween xa xb ya yb ↔ ya ≤ y ∧ y ≤ yb ∧ xa y ≤ x ∧ x ≤ xb y := by
  simp only [rowsBetween, List.mem_flatMap, List.mem_map, mem_intRange, Prod.mk.injEq]
  constructor
  · rintro ⟨y', ⟨hya, hyb⟩, x', ⟨hxa, hxb⟩, rfl, rfl⟩
    exact ⟨hya, hyb, hxa, hxb⟩
  · rintro ⟨hya, hyb, hxa, hxb⟩
    exact ⟨y, ⟨hya, hyb⟩, x, ⟨hxa, hxb⟩, rfl, rfl⟩

theorem pairwise_rowsBetween : (rowsBetween xa xb ya yb).Pairwise rasterLt := by
  rw [rowsBetween, List.pairwise_flatMap]
  refine ⟨fun y _ => (pairwise_lt_intRange (xa y) (xb y)).map _ fun _ _ h => .inr ⟨rfl, h⟩, ?_⟩
  refine (pairwise_lt_intRange ya yb).imp fun hlt q hq q' hq' => .inl ?_
  obtain ⟨x, -, rfl⟩ := List.mem_map.mp hq
  obtain ⟨x', -, rfl⟩ := List.mem_map.mp hq'
  exact hlt

theorem pairwise_rasterBox (xa xb ya yb : ℤ) : (rasterBox xa xb ya yb).Pairwise rasterLt :=
  pairwise_rowsBetween (fun _ => xa) (fun _ => xb) ya yb

theorem count_rowsBetween (x y : ℤ) :
    (rowsBetween xa xb ya yb).count (x, y) = if ya ≤ y ∧ y ≤ yb ∧ xa y ≤ x ∧ x ≤ xb y then 1 else 0 := by
  rw [(nodup_of_pairwise_rasterLt (pairwise_rowsBetween xa xb ya yb)).count]
  exact if_congr (mem_rowsBetween ..) rfl rfl

end

/-! ### Commands that paint a list of points -/

section
variable {s : State} {t : Handle} {d : Drawbuffer} (hs : s.slot t = some d) (ha : d.addressable = true)
include hs ha

/-- A command that checks its Live target and draws a list of points that the descriptor determines draws that list. -/
theorem draws_putAll (pts : Drawbuffer → List Point) (color : Pixel) (m : DrawMode) :
    ∃ s', withLive t s (fun d => onMemory d ((s.putAll t (pts d) color m).respondOk [])) = .next s' ∧
      Drawn s s' t d (pts d) (m.paint color) :=
  ⟨_, (withLive_pass hs _).trans (onMemory_pass ha _), drawn_putAll hs (pts d) color m⟩

/-- A command that checks its Live target and makes one pass over the buffer makes that pass. -/
theorem draws_blendCoverage (color : Pixel) (k : Point → ℕ) :
    ∃ s', withLive t s (fun d => onMemory d ((s.blendCoverage t d.pixels color k).respondOk [])) = .next s' ∧
      DrawnAa s s' t d color k :=
  ⟨_, (withLive_pass hs _).trans (onMemory_pass ha _), drawnAa_blendCoverage color k hs⟩

end

/-! ### Rectangle -/

section
variable {W H : ℕ} {x y w h : ℤ} {q : Point}

theorem mem_rectPoints_fill :
    q ∈ rectPoints W H x y w h .fill ↔
      max x 0 ≤ q.1 ∧ q.1 < min (x + w) W ∧ max y 0 ≤ q.2 ∧ q.2 < min (y + h) H := by
  simp only [rectPoints, rectBox, List.mem_filter, mem_rasterBox, Int.le_sub_one_iff, beq_self_eq_true,
    Bool.true_or, and_true]

theorem mem_rectPoints_outline :
    q ∈ rectPoints W H x y w h .outline ↔ q ∈ rectPoints W H x y w h .fill ∧
      (q.1 = max x 0 ∨ q.1 = min (x + w) W - 1 ∨ q.2 = max y 0 ∨ q.2 = min (y + h) H - 1) := by
  rw [mem_rectPoints_fill]
  simp [rectPoints, rectBox, mem_rasterBox, or_assoc]

end

/-! ### Triangle: the edges -/

theorem edgeX_vertexOf (P Q : Point) (y : ℤ) : edgeX (vertexOf P) (vertexOf Q) y = crossing P Q y := by
  simp only [edgeX, vertexOf, crossing]
  push_cast
  rfl

section
variable (P Q : Vertex) {m : ℤ} (y : ℤ)

/-- An edge cut at row m: its upper part is on the same line (R260). -/
theorem edgeX_upperPart (hm : m ≠ P.y) : edgeX P ⟨edgeX P Q m, m⟩ y = edgeX P Q y := by
  have h : ((m - P.y : ℤ) : ℚ) ≠ 0 := by exact_mod_cast sub_ne_zero.mpr hm
  simp only [edgeX, add_sub_cancel_left]
  field_simp

/-- An edge cut at row m: its lower part is on the same line (R260). -/
theorem edgeX_lowerPart (hm : m ≠ Q.y) (hPQ : P.y ≠ Q.y) : edgeX ⟨edgeX P Q m, m⟩ Q y = edgeX P Q y := by
  have h : (Q.y : ℚ) - m ≠ 0 := by exact_mod_cast sub_ne_zero.mpr hm.symm
  have h' : (Q.y : ℚ) - P.y ≠ 0 := by exact_mod_cast sub_ne_zero.mpr hPQ.symm
  simp only [edgeX]
  push_cast
  field_simp
  ring

end

/-- Between two edges: which of them is named first does not matter (R260). -/
theorem edgeSpans_comm (P Q P' Q' : Vertex) (ya yb : ℤ) :
    edgeSpans P Q P' Q' ya yb = edgeSpans P' Q' P Q ya yb :=
  List.map_congr_left fun y _ => by simp only [min_comm (edgeX P Q y), max_comm (edgeX P Q y)]

theorem edgeSpans_congr {P Q P' Q' P'' Q'' : Vertex} (h : ∀ y, edgeX P' Q' y = edgeX P'' Q'' y) (ya yb : ℤ) :
    edgeSpans P Q P' Q' ya yb = edgeSpans P Q P'' Q'' ya yb := by
  simp only [edgeSpans, h]

/-- The spans between the edge P–Q, on its own rows, and the edge P'–Q'; none if P–Q has no height (R260). -/
def partSpans (P Q P' Q' : Point) : List Span :=
  if P.2 < Q.2 then edgeSpans (vertexOf P) (vertexOf Q) (vertexOf P') (vertexOf Q') P.2 Q.2 else []

section
variable {P Q : Point}

theorem partSpans_of_not_lt (h : ¬ P.2 < Q.2) (P' Q' : Point) : partSpans P Q P' Q' = [] :=
  if_neg h

theorem partSpans_of_lt (h : P.2 < Q.2) (P' Q' : Point) :
    partSpans P Q P' Q' = edgeSpans (vertexOf P) (vertexOf Q) (vertexOf P') (vertexOf Q') P.2 Q.2 :=
  if_pos h

theorem partSpans_comm {P' Q' : Point} (hP : P.2 = P'.2) (hQ : Q.2 = Q'.2) :
    partSpans P Q P' Q' = partSpans P' Q' P Q := by
  rw [partSpans, edgeSpans_comm, hP, hQ, partSpans]

variable (P Q)

theorem count_points_partSpans (P' Q' : Point) (x y : ℤ) :
    ((partSpans P Q P' Q').flatMap Span.points).count (x, y) =
      if P.2 < Q.2 ∧ P.2 ≤ y ∧ y ≤ Q.2 ∧ onSpan (crossing P Q y) (crossing P' Q' y) x then 1 else 0 := by
  by_cases h : P.2 < Q.2
  · have hrows : (partSpans P Q P' Q').flatMap Span.points =
        rowsBetween (fun y => ⌊min (crossing P Q y) (crossing P' Q' y)⌋)
          (fun y => ⌊max (crossing P Q y) (crossing P' Q' y)⌋) P.2 Q.2 := by
      simp only [partSpans_of_lt h, edgeSpans, List.flatMap_map, edgeX_vertexOf]
      rfl
    rw [hrows, count_rowsBetween]
    exact if_congr (and_iff_right h).symm rfl rfl
  · simp [partSpans_of_not_lt h, h]

theorem mem_points_partSpans {P Q P' Q' : Point} {x y : ℤ} : (x, y) ∈ (partSpans P Q P' Q').flatMap Span.points ↔
    P.2 < Q.2 ∧ P.2 ≤ y ∧ y ≤ Q.2 ∧ onSpan (crossing P Q y) (crossing P' Q' y) x := by
  rw [← List.count_pos_iff, count_points_partSpans]
  split
  case isTrue h => exact iff_of_true one_pos h
  case isFalse h => exact iff_of_false (lt_irrefl 0) h

end

/-! ### Triangle: the spans of sorted vertices -/

section
variable {H : ℕ} {a b c : Point}

theorem sortByY_of_sorted (hab : a.2 ≤ b.2) (hbc : b.2 ≤ c.2) : sortByY a b c = (a, b, c) := by
  simp only [sortByY, if_neg hab.not_gt, if_neg (hab.trans hbc).not_gt, if_neg hbc.not_gt]

theorem triSpans_congr {a' b' c' : Point} (h : sortByY a b c = sortByY a' b' c') :
    triSpans H a b c = triSpans H a' b' c' := by
  simp only [triSpans, h]

variable (hab : a.2 ≤ b.2) (hbc : b.2 ≤ c.2)
include hab hbc

theorem triSpans_culled (h : c.2 < 0 ∨ (H : ℤ) ≤ a.2) : triSpans H a b c = [] := by
  simp only [triSpans, sortByY_of_sorted hab hbc, if_pos h]

theorem triSpans_row (h : ¬ (c.2 < 0 ∨ (H : ℤ) ≤ a.2)) (hac : a.2 = c.2) :
    triSpans H a b c = [⟨a.2, min (min a.1 b.1) c.1, max (max a.1 b.1) c.1⟩] := by
  simp only [triSpans, sortByY_of_sorted hab hbc, if_neg h, if_pos hac]

/-- Flat bottom, flat top and split are one: the part above b's row and the part below it, each only where it has a
height (R260). -/
theorem triSpans_parts (h : ¬ (c.2 < 0 ∨ (H : ℤ) ≤ a.2)) (hac : a.2 < c.2) :
    triSpans H a b c = partSpans a b a c ++ partSpans b c a c := by
  simp only [triSpans, sortByY_of_sorted hab hbc, if_neg h, if_neg hac.ne]
  split
  case isTrue hflat =>
    rw [partSpans_of_not_lt hflat.not_lt, partSpans_of_lt (hac.trans_eq hflat.symm), List.append_nil]
    rfl
  case isFalse hbc' =>
    rw [partSpans_of_lt (lt_of_le_of_ne hbc hbc')]
    split
    case isTrue hflat =>
      rw [partSpans_of_not_lt hflat.not_lt, List.nil_append, flatTop, edgeSpans_comm, ← hflat]
      rfl
    case isFalse hab' =>
      rw [partSpans_of_lt (lt_of_le_of_ne hab hab')]
      have hupper := edgeX_upperPart (vertexOf a) (vertexOf c) (m := b.2) (hm := Ne.symm hab')
      have hlower := edgeX_lowerPart (vertexOf a) (vertexOf c) (m := b.2) (hm := hbc') (hPQ := hac.ne)
      exact congrArg₂ (· ++ ·) (edgeSpans_congr hupper ..) (edgeSpans_congr hlower ..)

end

/-! ### Triangle: the order of the vertices -/

section
variable (H : ℕ) (a b c : Point)

theorem triSpans_swap_top (hab : a.2 = b.2) (hbc : b.2 ≤ c.2) : triSpans H b a c = triSpans H a b c := by
  have hac : a.2 ≤ c.2 := hab.trans_le hbc
  by_cases hcull : c.2 < 0 ∨ (H : ℤ) ≤ a.2
  · rw [triSpans_culled hab.le hbc hcull, triSpans_culled hab.ge hac (hab ▸ hcull)]
  · by_cases hrow : a.2 = c.2
    · rw [triSpans_row hab.le hbc hcull hrow, triSpans_row hab.ge hac (hab ▸ hcull) (hab ▸ hrow), min_comm b.1,
        max_comm b.1, hab]
    · have hlt := lt_of_le_of_ne hac hrow
      rw [triSpans_parts hab.le hbc hcull hlt, triSpans_parts hab.ge hac (hab ▸ hcull) (hab ▸ hlt),
        partSpans_of_not_lt hab.not_lt, partSpans_of_not_lt hab.not_gt, partSpans_comm hab rfl]

theorem triSpans_swap_bottom (hab : a.2 ≤ b.2) (hbc : b.2 = c.2) : triSpans H a c b = triSpans H a b c := by
  have hac : a.2 ≤ c.2 := hab.trans_eq hbc
  by_cases hcull : c.2 < 0 ∨ (H : ℤ) ≤ a.2
  · rw [triSpans_culled hab hbc.le hcull, triSpans_culled hac hbc.ge (hbc ▸ hcull)]
  · by_cases hrow : a.2 = c.2
    · rw [triSpans_row hab hbc.le hcull hrow, triSpans_row hac hbc.ge (hbc ▸ hcull) (hbc ▸ hrow), min_right_comm,
        max_right_comm]
    · have hlt := lt_of_le_of_ne hac hrow
      rw [triSpans_parts hab hbc.le hcull hlt, triSpans_parts hac hbc.ge (hbc ▸ hcull) (hbc ▸ hlt),
        partSpans_of_not_lt hbc.not_lt, partSpans_of_not_lt hbc.not_gt, partSpans_comm rfl hbc]

variable {a b c}

/-- The sort does not see the order of the first two vertices, unless they share a row. -/
theorem sortByY_swap_left (hab : a.2 ≠ b.2) : sortByY b a c = sortByY a b c := by
  rcases hab.lt_or_gt with h | h <;> simp only [sortByY, if_pos h, if_neg h.not_gt]

/-- The sort does not see the order of the last two vertices, unless they share a row. -/
theorem sortByY_swap_right (hbc : b.2 ≠ c.2) : sortByY a c b = sortByY a b c := by
  wlog hlt : b.2 < c.2
  · exact (this hbc.symm (hbc.lt_or_gt.resolve_left hlt)).symm
  rcases le_or_gt a.2 b.2 with hab | hba
  · rw [sortByY_of_sorted hab hlt.le]
    simp only [sortByY, if_neg (hab.trans hlt.le).not_gt, if_neg hab.not_gt, if_pos hlt]
  · simp only [sortByY, if_pos hba, if_neg hlt.not_gt]
    split <;> rfl

/-- Where the last vertex is the topmost, the sort puts it in front. -/
theorem sortByY_of_last_top (hab : a.2 ≤ b.2) (hca : c.2 < a.2) : sortByY a b c = sortByY c a b := by
  rw [sortByY_of_sorted hca.le hab, sortByY, if_neg hab.not_gt]
  exact if_pos hca

/-- Where the first vertex is the lowest, the sort puts it at the end. -/
theorem sortByY_of_first_bottom (hbc : b.2 ≤ c.2) (hca : c.2 < a.2) : sortByY a b c = sortByY b c a := by
  rw [sortByY_of_sorted hbc hca.le, sortByY, if_pos (hbc.trans_lt hca)]
  exact (if_neg hbc.not_gt).trans (if_pos hca)

variable (a b c)

theorem triSpans_swap_left : triSpans H b a c = triSpans H a b c := by
  by_cases hab : a.2 = b.2
  · rcases le_or_gt b.2 c.2 with hbc | hcb
    · exact triSpans_swap_top H a b c hab hbc
    · have hca : c.2 < a.2 := hcb.trans_eq hab.symm
      calc triSpans H b a c
        _ = triSpans H c b a := triSpans_congr (sortByY_of_last_top hab.ge hcb)
        _ = triSpans H c a b := triSpans_swap_bottom H c a b hca.le hab
        _ = triSpans H a b c := triSpans_congr (sortByY_of_last_top hab.le hca).symm
  · exact triSpans_congr (sortByY_swap_left hab)

theorem triSpans_swap_right : triSpans H a c b = triSpans H a b c := by
  by_cases hbc : b.2 = c.2
  · rcases le_or_gt a.2 b.2 with hab | hba
    · exact triSpans_swap_bottom H a b c hab hbc
    · have hca : c.2 < a.2 := hbc.symm.trans_lt hba
      calc triSpans H a c b
        _ = triSpans H c b a := triSpans_congr (sortByY_of_first_bottom hbc.ge hba)
        _ = triSpans H b c a := triSpans_swap_top H b c a hbc hca.le
        _ = triSpans H a b c := triSpans_congr (sortByY_of_first_bottom hbc.le hca).symm
  · exact triSpans_congr (sortByY_swap_right hbc)

theorem trianglePoints_swap_left : trianglePoints H b a c = trianglePoints H a b c :=
  congrArg (List.flatMap Span.points) (triSpans_swap_left H a b c)

theorem trianglePoints_swap_right : trianglePoints H a c b = trianglePoints H a b c :=
  congrArg (List.flatMap Span.points) (triSpans_swap_right H a b c)

end

/-- A property that swaps of neighbours keep holds of any three points if it holds of points sorted by y. -/
theorem of_sorted {P : Point → Point → Point → Prop} (hleft : ∀ a b c, P b a c → P a b c)
    (hright : ∀ a b c, P a c b → P a b c) (hsorted : ∀ a b c, a.2 ≤ b.2 → b.2 ≤ c.2 → P a b c) (a b c : Point) :
    P a b c := by
  have hfirst : ∀ a b c, a.2 ≤ b.2 → P a b c := fun a b c hab => by
    rcases le_total b.2 c.2 with hbc | hcb
    · exact hsorted a b c hab hbc
    · refine hright a b c ?_
      rcases le_total a.2 c.2 with hac | hca
      · exact hsorted a c b hac hcb
      · exact hleft a c b (hsorted c a b hca hab)
  rcases le_total a.2 b.2 with hab | hba
  · exact hfirst a b c hab
  · exact hleft a b c (hfirst b a c hba)

/-! ### Triangle: the pixels -/

section
variable {P Q : Point} {y : ℤ}

/-- A point of an edge lies between its ends (R260). -/
theorem crossing_mem {lo hi : ℤ} (hP : lo ≤ P.1 ∧ P.1 ≤ hi) (hQ : lo ≤ Q.1 ∧ Q.1 ≤ hi) (hPy : P.2 ≤ y) (hyQ : y ≤ Q.2)
    (hPQ : P.2 < Q.2) : (lo : ℚ) ≤ crossing P Q y ∧ crossing P Q y ≤ hi := by
  have hh : (0 : ℚ) < Q.2 - P.2 := by exact_mod_cast sub_pos.mpr hPQ
  have h0 : (0 : ℚ) ≤ (y - P.2) / (Q.2 - P.2) := div_nonneg (by exact_mod_cast sub_nonneg.mpr hPy) hh.le
  have h1 : (y - P.2) / (Q.2 - P.2) ≤ (1 : ℚ) := (div_le_one hh).mpr (by exact_mod_cast sub_le_sub_right hyQ P.2)
  have hP' : (P.1 : ℚ) ∈ Set.Icc (lo : ℚ) hi := ⟨by exact_mod_cast hP.1, by exact_mod_cast hP.2⟩
  have hQ' : (Q.1 : ℚ) ∈ Set.Icc (lo : ℚ) hi := ⟨by exact_mod_cast hQ.1, by exact_mod_cast hQ.2⟩
  rw [crossing, mul_div_right_comm]
  exact (convex_Icc (lo : ℚ) hi).add_smul_sub_mem hP' hQ' ⟨h0, h1⟩

end

theorem mem_of_onSpan {e f : ℚ} {lo hi x : ℤ} (he : (lo : ℚ) ≤ e ∧ e ≤ hi) (hf : (lo : ℚ) ≤ f ∧ f ≤ hi)
    (hx : onSpan e f x) : lo ≤ x ∧ x ≤ hi := by
  obtain ⟨hl, hr⟩ := hx
  refine ⟨(Int.le_floor.mpr (le_min he.1 hf.1)).trans hl, hr.trans ?_⟩
  exact_mod_cast (Int.floor_le _).trans (max_le he.2 hf.2)

section
variable {H : ℕ} {a b c : Point} (hab : a.2 ≤ b.2) (hbc : b.2 ≤ c.2)
include hab hbc

theorem trianglePoints_culled (h : c.2 < 0 ∨ (H : ℤ) ≤ a.2) : trianglePoints H a b c = [] :=
  congrArg (List.flatMap Span.points) (triSpans_culled hab hbc h)

theorem trianglePoints_row (h : ¬ (c.2 < 0 ∨ (H : ℤ) ≤ a.2)) (hac : a.2 = c.2) :
    trianglePoints H a b c =
      rowsBetween (fun _ => min (min a.1 b.1) c.1) (fun _ => max (max a.1 b.1) c.1) a.2 a.2 := by
  rw [trianglePoints, triSpans_row hab hbc h hac]
  simp [rowsBetween, Span.points, intRange]

theorem trianglePoints_parts (h : ¬ (c.2 < 0 ∨ (H : ℤ) ≤ a.2)) (hac : a.2 < c.2) :
    trianglePoints H a b c =
      (partSpans a b a c).flatMap Span.points ++ (partSpans b c a c).flatMap Span.points := by
  rw [trianglePoints, triSpans_parts hab hbc h hac, List.flatMap_append]

end

/-- q lies in the bounding box of three vertices. -/
def inVertexBox (a b c q : Point) : Prop :=
  min (min a.1 b.1) c.1 ≤ q.1 ∧ q.1 ≤ max (max a.1 b.1) c.1 ∧
    min (min a.2 b.2) c.2 ≤ q.2 ∧ q.2 ≤ max (max a.2 b.2) c.2

theorem inVertexBox_swap_left {a b c q : Point} : inVertexBox b a c q ↔ inVertexBox a b c q := by
  rw [inVertexBox, inVertexBox, min_comm b.1, max_comm b.1, min_comm b.2, max_comm b.2]

theorem inVertexBox_swap_right {a b c q : Point} : inVertexBox a c b q ↔ inVertexBox a b c q := by
  rw [inVertexBox, inVertexBox, min_right_comm a.1, max_right_comm a.1, min_right_comm a.2, max_right_comm a.2]

section
variable {H : ℕ} {a b c : Point}

theorem inVertexBox_of_sorted_mem (hab : a.2 ≤ b.2) (hbc : b.2 ≤ c.2) {x y : ℤ}
    (hq : (x, y) ∈ trianglePoints H a b c) : inVertexBox a b c (x, y) := by
  have inBox (hx : min (min a.1 b.1) c.1 ≤ x ∧ x ≤ max (max a.1 b.1) c.1) (hay : a.2 ≤ y) (hyc : y ≤ c.2) :
      inVertexBox a b c (x, y) :=
    ⟨hx.1, hx.2, ((min_le_left ..).trans (min_le_left ..)).trans hay, hyc.trans (le_max_right ..)⟩
  by_cases hcull : c.2 < 0 ∨ (H : ℤ) ≤ a.2
  · simp [trianglePoints_culled hab hbc hcull] at hq
  · rcases (hab.trans hbc).eq_or_lt with hac | hac
    · rw [trianglePoints_row hab hbc hcull hac, mem_rowsBetween] at hq
      obtain ⟨hay, hya, hx⟩ := hq
      exact inBox hx hay (hya.trans_eq hac)
    · rw [trianglePoints_parts hab hbc hcull hac, List.mem_append, mem_points_partSpans, mem_points_partSpans] at hq
      obtain ⟨hlt, hay, hyb, hx⟩ | ⟨hlt, hby, hyc, hx⟩ := hq
      · have hyc := hyb.trans hbc
        refine inBox (mem_of_onSpan (crossing_mem ?_ ?_ hay hyb hlt) (crossing_mem ?_ ?_ hay hyc hac) hx) hay hyc <;>
          omega
      · have hay := hab.trans hby
        refine inBox (mem_of_onSpan (crossing_mem ?_ ?_ hby hyc hlt) (crossing_mem ?_ ?_ hay hyc hac) hx) hay hyc <;>
          omega

theorem inVertexBox_of_mem {q : Point} : q ∈ trianglePoints H a b c → inVertexBox a b c q :=
  of_sorted (P := fun a b c => q ∈ trianglePoints H a b c → inVertexBox a b c q)
    (fun a b c h hq => inVertexBox_swap_left.mp (h (trianglePoints_swap_left H a b c ▸ hq)))
    (fun a b c h hq => inVertexBox_swap_right.mp (h (trianglePoints_swap_right H a b c ▸ hq)))
    (fun _ _ _ hab hbc => inVertexBox_of_sorted_mem hab hbc) a b c

end

/-! ### Circle: a set kept in raster order -/

theorem mem_rasterInsert {p q : Point} {pts : List Point} : q ∈ rasterInsert p pts ↔ q = p ∨ q ∈ pts := by
  induction pts with
  | nil => exact List.mem_cons
  | cons r pts ih =>
    rw [rasterInsert]
    split
    case isTrue heq => simp [heq]
    case isFalse =>
      split
      · exact List.mem_cons
      · rw [List.mem_cons, ih, List.mem_cons, or_left_comm]

theorem pairwise_rasterInsert {p : Point} {pts : List Point} (h : pts.Pairwise rasterLt) :
    (rasterInsert p pts).Pairwise rasterLt := by
  induction pts with
  | nil => exact List.pairwise_singleton ..
  | cons r pts ih =>
    obtain ⟨hr, hpts⟩ := List.pairwise_cons.mp h
    rw [rasterInsert]
    split
    case isTrue => exact h
    case isFalse hne =>
      split
      case isTrue hlt =>
        refine List.pairwise_cons.mpr ⟨fun q hq => ?_, h⟩
        obtain rfl | hq := List.mem_cons.mp hq
        · exact hlt
        · exact rasterLt_trans hlt (hr q hq)
      case isFalse hge =>
        refine List.pairwise_cons.mpr ⟨fun q hq => ?_, ih hpts⟩
        obtain rfl | hq := mem_rasterInsert.mp hq
        · rw [Prod.ext_iff] at hne
          unfold rasterLt
          omega
        · exact hr q hq

theorem mem_foldr_rasterInsert {q : Point} {pts : List Point} : q ∈ pts.foldr rasterInsert [] ↔ q ∈ pts := by
  induction pts with
  | nil => rfl
  | cons p pts ih => rw [List.foldr_cons, mem_rasterInsert, ih, List.mem_cons]

theorem pairwise_foldr_rasterInsert (pts : List Point) : (pts.foldr rasterInsert []).Pairwise rasterLt := by
  induction pts with
  | nil => exact .nil
  | cons p pts ih => exact pairwise_rasterInsert ih

/-! ### Circle: the octant's arc -/

/-- (u, v) is on the midpoint circle of radius r about the origin, in the octant 0 ≤ v ≤ u: the exact circle crosses row
v between u - 1/2 and u + 1/2 (R270). -/
def onArc (r u v : ℤ) : Prop := u ^ 2 + v ^ 2 - u < r ^ 2 ∧ r ^ 2 ≤ u ^ 2 + v ^ 2 + u

/-- m^2 - m rises with m: the bounds of `onArc` for neighbouring u meet. -/
theorem sq_sub_self_mono {m n : ℤ} (hm : 0 ≤ m) (hmn : m ≤ n) : m ^ 2 - m ≤ n ^ 2 - n := by
  obtain rfl | hlt := hmn.eq_or_lt
  · exact le_rfl
  · nlinarith

/-- A row has one pixel of the arc. -/
theorem onArc.unique {r u u' v : ℤ} (h : onArc r u v) (h' : onArc r u' v) (hu : 0 ≤ u) (hu' : 0 ≤ u') : u = u' := by
  obtain ⟨hinner, houter⟩ := h
  obtain ⟨hinner', houter'⟩ := h'
  rcases lt_trichotomy u u' with hlt | heq | hlt
  · linarith [sq_sub_self_mono (m := u + 1) (by omega) hlt]
  · exact heq
  · linarith [sq_sub_self_mono (m := u' + 1) (by omega) hlt]

/-- The error term of R270's loop at (x, y): (x - 1/2)^2 + (y + 1)^2 - r^2 less 1/4. So it is negative exactly where the
midpoint between the next row's two candidates lies inside the circle. -/
def midpointError (r x y : ℤ) : ℤ := (y + 1) ^ 2 + x ^ 2 - x - r ^ 2

/-- What R270's loop keeps at (x, y): the point is on the arc, but for the last turn, which leaves the octant and may go
too far inward. -/
structure OnWalk (r x y : ℤ) : Prop where
  row_nonneg : 0 ≤ y
  sum_nonneg : 0 ≤ x + y
  outer : r ^ 2 ≤ x ^ 2 + y ^ 2 + x
  inner : y ≤ x → x ^ 2 + y ^ 2 - x < r ^ 2

theorem onWalk_start {r : ℤ} (hr : 1 ≤ r) : OnWalk r r 0 :=
  ⟨le_rfl, by omega, by linarith, fun _ => by linarith⟩

/-- p is one of the octant points of an arc pixel of row y or a later one. -/
def onArcFrom (cx cy r y : ℤ) (p : Point) : Prop :=
  ∃ u v, y ≤ v ∧ v ≤ u ∧ onArc r u v ∧ p ∈ circleOctants cx cy u v

section
variable {cx cy r x y : ℤ} {p : Point} (h : OnWalk r x y)
include h

theorem OnWalk.stay (herr : midpointError r x y < 0) : OnWalk r x (y + 1) := by
  obtain ⟨hy, hsum, houter, -⟩ := h
  unfold midpointError at herr
  exact ⟨by omega, by omega, by linarith, fun _ => by linarith⟩

theorem OnWalk.inward (hyx : y ≤ x) (herr : ¬ midpointError r x y < 0) : OnWalk r (x - 1) (y + 1) := by
  obtain ⟨hy, hsum, -, hinner⟩ := h
  have hin := hinner hyx
  unfold midpointError at herr
  exact ⟨by omega, by omega, by linarith, fun _ => by linarith⟩

/-- Where the walk has left the octant, no later row has a pixel of the arc in it. -/
theorem OnWalk.not_onArcFrom (hxy : x < y) : ¬ onArcFrom cx cy r y p := by
  obtain ⟨hy, hsum, houter, -⟩ := h
  rintro ⟨u, v, hyv, hvu, ⟨hinner, -⟩, -⟩
  have hx : 0 ≤ (x + y) * (y - x - 1) := mul_nonneg hsum (by omega)
  have hu : y ^ 2 - y ≤ u ^ 2 - u := sq_sub_self_mono hy (hyv.trans hvu)
  have hv : y ^ 2 ≤ v ^ 2 := pow_le_pow_left₀ hy hyv 2
  linarith

/-- In the octant, the point of the turn is its row's pixel of the arc. -/
theorem OnWalk.onArcFrom_iff (hyx : y ≤ x) :
    onArcFrom cx cy r y p ↔ p ∈ circleOctants cx cy x y ∨ onArcFrom cx cy r (y + 1) p := by
  have hpoint : onArc r x y := ⟨h.inner hyx, h.outer⟩
  constructor
  · rintro ⟨u, v, hyv, hvu, harc, hp⟩
    obtain rfl | hlt := hyv.eq_or_lt
    · obtain rfl := harc.unique hpoint (h.row_nonneg.trans hvu) (h.row_nonneg.trans hyx)
      exact .inl hp
    · exact .inr ⟨u, v, hlt, hvu, harc, hp⟩
  · rintro (hp | ⟨u, v, hyv, hvu, harc, hp⟩)
    · exact ⟨x, y, le_rfl, hyx, hpoint, hp⟩
    · exact ⟨u, v, by omega, hvu, harc, hp⟩

end

/-- The loop of R270, entered at (x, y), gives the octants of the arc's pixels from row y on. -/
theorem mem_midpointWalk {cx cy r : ℤ} {p : Point} {fuel : ℕ} {x y : ℤ} (h : OnWalk r x y) (hfuel : x - y < fuel) :
    p ∈ midpointWalk cx cy fuel x y (midpointError r x y) ↔ onArcFrom cx cy r y p := by
  induction fuel generalizing x y with
  | zero => exact iff_of_false List.not_mem_nil (h.not_onArcFrom (by simpa using hfuel))
  | succ fuel ih =>
    push_cast at hfuel
    rw [midpointWalk]
    split
    case isTrue hxy => exact iff_of_false List.not_mem_nil (h.not_onArcFrom hxy)
    case isFalse hxy =>
      have hyx := not_lt.mp hxy
      rw [List.mem_append, h.onArcFrom_iff hyx]
      refine or_congr_right ?_
      split
      case isTrue herr =>
        have hnext : midpointError r x y + 2 * (y + 1) + 1 = midpointError r x (y + 1) := by
          unfold midpointError
          ring
        rw [hnext]
        exact ih (h.stay herr) (by omega)
      case isFalse herr =>
        have hnext : midpointError r x y + 2 * (y + 1 - (x - 1)) + 1 = midpointError r (x - 1) (y + 1) := by
          unfold midpointError
          ring
        rw [hnext]
        exact ih (h.inward hyx herr) (by omega)

theorem mem_circleOctants {cx cy x y u v : ℤ} (hx : 0 ≤ x) (hy : 0 ≤ y) :
    (cx + u, cy + v) ∈ circleOctants cx cy x y ↔ |u| = x ∧ |v| = y ∨ |u| = y ∧ |v| = x := by
  simp only [circleOctants, List.mem_cons, Prod.mk.injEq, List.not_mem_nil, or_false, abs_eq hx, abs_eq hy]
  omega

/-! ### Circle: the two sets -/

theorem mem_circleFill {cx cy r u v : ℤ} : (cx + u, cy + v) ∈ circleFill cx cy r ↔ 0 ≤ r ∧ u ^ 2 + v ^ 2 ≤ r ^ 2 := by
  rw [circleFill]
  split
  case isTrue hr => exact iff_of_false List.not_mem_nil (by omega)
  case isFalse hr =>
    rw [List.mem_filter, mem_rasterBox, decide_eq_true_iff, add_sub_cancel_left, add_sub_cancel_left]
    refine ⟨fun ⟨_, hle⟩ => ⟨not_lt.mp hr, hle⟩, fun ⟨hr, hle⟩ => ⟨?_, hle⟩⟩
    obtain ⟨hu, hu'⟩ := abs_le_of_sq_le_sq' ((le_add_of_nonneg_right (sq_nonneg v)).trans hle) hr
    obtain ⟨hv, hv'⟩ := abs_le_of_sq_le_sq' ((le_add_of_nonneg_left (sq_nonneg u)).trans hle) hr
    refine ⟨?_, ?_, ?_, ?_⟩ <;> dsimp only <;> omega

theorem circleOutline_of_neg {cx cy r : ℤ} (hr : r < 0) : circleOutline cx cy r = [] :=
  if_pos hr

theorem circleOutline_zero (cx cy : ℤ) : circleOutline cx cy 0 = [(cx, cy)] := by
  simp [circleOutline, midpointWalk, circleOctants, rasterInsert]

/-- The outline is the arc reflected into the eight octants. -/
theorem mem_circleOutline {cx cy r u v : ℤ} (hr : 1 ≤ r) :
    (cx + u, cy + v) ∈ circleOutline cx cy r ↔ onArc r (max |u| |v|) (min |u| |v|) := by
  have hstart : 1 - r = midpointError r r 0 := by
    unfold midpointError
    ring
  have hfuel : r - 0 < (r.toNat + 1 : ℕ) := by omega
  rw [circleOutline, if_neg (by omega), mem_foldr_rasterInsert, hstart, mem_midpointWalk (onWalk_start hr) hfuel]
  constructor
  · rintro ⟨x, y, hy, hyx, harc, hp⟩
    obtain ⟨rfl, rfl⟩ | ⟨rfl, rfl⟩ := (mem_circleOctants (hy.trans hyx) hy).mp hp
    · rwa [max_eq_left hyx, min_eq_right hyx]
    · rwa [max_eq_right hyx, min_eq_left hyx]
  · intro harc
    have hmin : 0 ≤ min |u| |v| := le_min (abs_nonneg u) (abs_nonneg v)
    refine ⟨_, _, hmin, min_le_max, harc, (mem_circleOctants (hmin.trans min_le_max) hmin).mpr ?_⟩
    rcases le_total |u| |v| with h | h
    · exact .inr ⟨(min_eq_left h).symm, (max_eq_right h).symm⟩
    · exact .inl ⟨(max_eq_left h).symm, (min_eq_right h).symm⟩

theorem pairwise_circlePoints (cx cy r : ℤ) (shape : Shape) : (circlePoints cx cy r shape).Pairwise rasterLt := by
  cases shape with
  | fill =>
    rw [circlePoints, circleFill]
    split
    · exact .nil
    · exact (pairwise_rasterBox ..).filter _
  | outline =>
    rw [circlePoints, circleOutline]
    split
    · exact .nil
    · exact pairwise_foldr_rasterInsert _

theorem circleOutline_symmetric {cx cy r u v : ℤ} (h : (cx + u, cy + v) ∈ circleOutline cx cy r) :
    (cx - u, cy + v) ∈ circleOutline cx cy r ∧ (cx + u, cy - v) ∈ circleOutline cx cy r ∧
      (cx + v, cy + u) ∈ circleOutline cx cy r := by
  rw [sub_eq_add_neg, sub_eq_add_neg]
  rcases lt_trichotomy r 0 with hr | rfl | hr
  · simp [circleOutline_of_neg hr] at h
  · simp only [circleOutline_zero, List.mem_singleton, Prod.mk.injEq] at h ⊢
    omega
  · rw [mem_circleOutline hr] at h
    refine ⟨?_, ?_, ?_⟩ <;> rw [mem_circleOutline hr]
    · rwa [abs_neg]
    · rwa [abs_neg]
    · rwa [max_comm, min_comm]

/-! ### Ring coverage -/

/-- R280's tests on squares say that two lengths are at most m apart. -/
theorem ringTests_iff {S F m : ℝ} (hS : 0 ≤ S) (hF : 0 ≤ F) :
    0 ≤ m ∧ S ^ 2 ≤ (F + m) ^ 2 ∧ (F - m ≤ 0 ∨ (F - m) ^ 2 ≤ S ^ 2) ↔ |S - F| ≤ m := by
  have inner : F - m ≤ 0 ∨ (F - m) ^ 2 ≤ S ^ 2 ↔ F - m ≤ S := by
    rcases le_total (F - m) 0 with h | h
    · exact iff_of_true (.inl h) (h.trans hS)
    · rw [sq_le_sq₀ h hS]
      exact or_iff_right_of_imp fun h0 => h0.trans hS
  rw [inner, abs_sub_le_iff, sub_le_iff_le_add' (a := S), sub_le_comm (a := F)]
  refine ⟨fun ⟨h0, houter, hin⟩ => ⟨(sq_le_sq₀ hS (add_nonneg hF h0)).mp houter, hin⟩, fun ⟨hout, hin⟩ => ?_⟩
  have h0 : 0 ≤ m := by linarith
  exact ⟨h0, (sq_le_sq₀ hS (add_nonneg hF h0)).mpr hout, hin⟩

theorem coverageRing_test_iff {A R j : ℕ} {sq : ℤ} (hsq : 0 ≤ sq) :
    (0 ≤ (128 * A : ℤ) - 256 * j ∧ (A * A * sq * 65536 : ℤ) ≤ (A * R + (128 * A - 256 * j)) ^ 2 ∧
        ((A * R : ℤ) - (128 * A - 256 * j) ≤ 0 ∨ ((A * R : ℤ) - (128 * A - 256 * j)) ^ 2 ≤ A * A * sq * 65536)) ↔
      (j : ℝ) ≤ (1 / 2 - |√(sq : ℝ) - R / 256|) * A := by
  have hsquare : (A * A * sq * 65536 : ℝ) = (256 * A * √(sq : ℝ)) ^ 2 := by
    rw [mul_pow, Real.sq_sqrt (by exact_mod_cast hsq)]
    ring
  have hdist : |256 * A * √(sq : ℝ) - A * R| = 256 * A * |√(sq : ℝ) - R / 256| := by
    have hscale : 256 * A * √(sq : ℝ) - A * R = 256 * A * (√(sq : ℝ) - R / 256) := by ring
    rw [hscale, abs_mul, abs_of_nonneg (by positivity)]
  rify
  rw [hsquare, ringTests_iff (by positivity) (by positivity), hdist]
  constructor <;> intro <;> linarith

theorem coverageRing_eq_floor (A R : ℕ) {sq : ℤ} (hsq : 0 ≤ sq) :
    ((coverageRing A R sq : ℕ) : ℤ) = ⌊max 0 (min (1 / 2 - |√(sq : ℝ) - (R : ℝ) / 256|) 1) * (A : ℝ)⌋ := by
  refine largestUpTo_eq_floor fun j => ?_
  rw [decide_eq_true_iff]
  exact coverageRing_test_iff hsq

/-- The ring's coverage is at most 1/2. -/
theorem coverageRing_le (A R : ℕ) {sq : ℤ} (hsq : 0 ≤ sq) : coverageRing A R sq ≤ A / 2 := by
  have hhalf : max 0 (min (1 / 2 - |√(sq : ℝ) - (R : ℝ) / 256|) 1) ≤ 1 / 2 :=
    max_le (by norm_num) ((min_le_left ..).trans (sub_le_self _ (abs_nonneg _)))
  have hle := Int.le_floor.mp (coverageRing_eq_floor A R hsq).le
  have hreal : (coverageRing A R sq : ℝ) * 2 ≤ A := by
    have := mul_le_mul_of_nonneg_right hhalf A.cast_nonneg
    push_cast at hle
    linarith
  rw [Nat.le_div_iff_mul_le two_pos]
  exact_mod_cast hreal

/-! ### The obligations -/

/-- Settles O47: the sets are filtered rows of the clamped box. -/
theorem rectanglePixelSets : Obligations.RectanglePixelSets := by
  intro W H x y w h q inBox
  refine ⟨mem_rectPoints_fill, ?_, fun _ => (pairwise_rasterBox ..).filter _⟩
  rw [mem_rectPoints_outline, mem_rectPoints_fill]

/-- Settles O48: each command paints its list of points. -/
theorem rectDraws : Obligations.RectDraws :=
  fun _ _ _ _ _ _ _ color hs ha =>
    ⟨draws_putAll hs ha _ color .overwrite, draws_putAll hs ha _ color .alphaBlend,
      draws_putAll hs ha _ color .overwrite, draws_putAll hs ha _ color .alphaBlend⟩

/-- Settles O49: both commands paint the pixels of the spans. -/
theorem triangleDraws : Obligations.TriangleDraws :=
  fun _ _ _ _ _ _ _ _ _ color hs ha =>
    ⟨draws_putAll hs ha _ color .overwrite, draws_putAll hs ha _ color .alphaBlend⟩

/-- Settles O50: the two parts of the sorted triangle, and the swaps of neighbours that sort it. -/
theorem triangleGeometry : Obligations.TriangleGeometry := by
  refine fun H a b c => ⟨trianglePoints_swap_left H a b c, trianglePoints_swap_right H a b c,
    fun _ => inVertexBox_of_mem, fun hab hbc => ⟨trianglePoints_culled hab hbc, fun hc ha x y => ?_⟩⟩
  have hcull : ¬ (c.2 < 0 ∨ (H : ℤ) ≤ a.2) := by omega
  refine ⟨fun hac => ?_, fun hac => ?_⟩
  · rw [trianglePoints_row hab hbc hcull hac, count_rowsBetween]
    exact if_congr (by omega) rfl rfl
  · rw [trianglePoints_parts hab hbc hcull hac, List.count_append]
    exact congrArg₂ (· + ·) (count_points_partSpans ..) (count_points_partSpans ..)

/-- Settles O51: the outline is the arc reflected, and the arc is R270's walk. -/
theorem circlePixelSets : Obligations.CirclePixelSets := by
  refine fun cx cy r u v => ⟨mem_circleFill, pairwise_circlePoints cx cy r, circleOutline_of_neg, ?_,
    fun hr hv hvu => ?_, circleOutline_symmetric⟩
  · rintro rfl
    exact circleOutline_zero cx cy
  · refine (mem_circleOutline hr).trans ?_
    rw [abs_of_nonneg hv, abs_of_nonneg (hv.trans hvu), max_eq_left hvu, min_eq_right hvu]
    exact Iff.rfl

/-- Settles O52: each command paints its list of points. -/
theorem circleDraws : Obligations.CircleDraws :=
  fun _ _ _ _ _ _ color hs ha =>
    ⟨draws_putAll hs ha _ color .overwrite, draws_putAll hs ha _ color .alphaBlend,
      draws_putAll hs ha _ color .overwrite, draws_putAll hs ha _ color .alphaBlend⟩

/-- Settles O53: R280's tests hold of the j up to the real-valued coverage. -/
theorem ringCoverageIsTheRealFloor : Obligations.RingCoverageIsTheRealFloor :=
  fun alpha radius256 _ hsq => ⟨coverageRing_eq_floor alpha radius256 hsq, coverageRing_le alpha radius256 hsq⟩

/-- Settles O54: each command is one pass over the buffer's pixels. -/
theorem circleAaDraws : Obligations.CircleAaDraws :=
  fun _ _ _ _ _ _ color hs ha =>
    ⟨draws_blendCoverage hs ha color _, draws_blendCoverage hs ha color _⟩

end Sys2Proof.Machine

/-! ## Proofs of the dither's family

A turn is one pixel quantised and then a share put on each of four later pixels (`rasterLt_neighbour`), so that in raster
order no turn touches a pixel whose own turn is past. Where the masks keep the pixel, every write of the turn puts back
what stands there (`State.ditherPx_of_keeps`), and that changes no byte (`State.readByte_setPx_getPx`). -/

namespace Sys2Proof.Machine

/-! ### Masks -/

/-- The masks clear no bit of the pixel's colour. -/
def Masks.Keeps (m : Masks) (p : Pixel) : Prop :=
  pixR p &&& m.mr = pixR p ∧ pixG p &&& m.mg = pixG p ∧ pixB p &&& m.mb = pixB p

/-- The pixel's colour has no bit outside the masks. -/
def Masks.OnGrid (m : Masks) (p : Pixel) : Prop :=
  pixR p &&& ~~~m.mr = 0 ∧ pixG p &&& ~~~m.mg = 0 ∧ pixB p &&& ~~~m.mb = 0

/-- The pixel q of R291: the colour masked, alpha kept. -/
def Masks.quantise (m : Masks) (p : Pixel) : Pixel :=
  pix (pixR p &&& m.mr) (pixG p &&& m.mg) (pixB p &&& m.mb) (pixA p)

theorem Masks.pixA_quantise (m : Masks) (p : Pixel) : pixA (m.quantise p) = pixA p :=
  pixA_pix ..

theorem Masks.onGrid_quantise (m : Masks) (p : Pixel) : m.OnGrid (m.quantise p) := by
  have hlane : ∀ c mask : Byte, c &&& mask &&& ~~~mask = 0 := fun c mask => by
    rw [BitVec.and_assoc, BitVec.and_not_self]
    exact BitVec.and_zero
  simp only [Masks.OnGrid, Masks.quantise, pixR_pix, pixG_pix, pixB_pix, hlane, and_self]

theorem Masks.keeps_transparent (m : Masks) : m.Keeps transparent :=
  ⟨BitVec.zero_and, BitVec.zero_and, BitVec.zero_and⟩

/-- Masks 0xFF clear nothing (R294 (1)). -/
theorem Masks.keeps_allOnes (p : Pixel) : (Masks.mk 0xFF 0xFF 0xFF).Keeps p :=
  ⟨BitVec.and_allOnes, BitVec.and_allOnes, BitVec.and_allOnes⟩

/-- A format's standard masks clear only bits below the fields that its decoder shifts up, mono1's apart (R294 (2)). -/
theorem Masks.keeps_standardMasks {f : Format} (hf : f ≠ .mono1) (P : Word) : f.standardMasks.Keeps (dec f P) := by
  have hthree : ∀ x : BitVec 3, (x ++ (0 : BitVec 5)) &&& 0xE0 = x ++ (0 : BitVec 5) := by decide
  have htwo : ∀ x : BitVec 2, (x ++ (0 : BitVec 6)) &&& 0xC0 = x ++ (0 : BitVec 6) := by decide
  have hfive : ∀ x : BitVec 5, (x ++ (0 : BitVec 3)) &&& 0xF8 = x ++ (0 : BitVec 3) := by decide
  have hsix : ∀ x : BitVec 6, (x ++ (0 : BitVec 2)) &&& 0xFC = x ++ (0 : BitVec 2) := by decide
  cases f with
  | mono1 => exact absurd rfl hf
  | rgb332 =>
    simp only [Masks.Keeps, Format.standardMasks, dec, pixR_pix, pixG_pix, pixB_pix, hthree, htwo, and_self]
  | rgb565 | bgr565 =>
    simp only [Masks.Keeps, Format.standardMasks, dec, pixR_pix, pixG_pix, pixB_pix, hfive, hsix, and_self]
  | _ => exact Masks.keeps_allOnes _

/-! ### What a format with the whole colour stores -/

/-- A 24- or 32-bit format stores a pixel as it is, given an alpha that the format can store. -/
theorem quant_of_keepsColour {f : Format} (hf : f.keepsColour) {p p' : Pixel} (hp : representable f p)
    (ha : pixA p' = pixA p) : quant f p' = p' := by
  refine dec_enc ?_
  cases f with
  | rgb888 | bgr888 => exact (congrArg BitVec.toNat ha).trans hp
  | rgba8888 | argb8888 | abgr8888 | bgra8888 => trivial
  | _ => exact hf.elim

section
variable {s : State} {t : Handle} {d : Drawbuffer} (h : s.holds t d)
include h

/-- What a pixel in bounds reads as is some packed value decoded (R150). -/
theorem State.getPx_eq_dec {x y : ℤ} (hq : d.inBounds x y = true) : ∃ P, s.getPx t x y = dec d.fmt P := by
  rw [State.getPx_of_holds h, if_pos hq, State.decodePx]
  split
  case isTrue => exact ⟨_, rfl⟩
  case isFalse => exact ⟨_, rfl⟩

variable (hf : d.fmt.keepsColour) {f : Pixel → Pixel} (ha : ∀ p, pixA (f p) = pixA p) (q : Point) {q' : Point}
  (hq' : d.inBounds q'.1 q'.2 = true)
include hf ha hq'

/-- A write to a 24- or 32-bit buffer of a pixel made, alpha kept, from what it replaces. -/
theorem State.getPx_setPx_of_keepsColour :
    (s.setPx t q.1 q.2 (f (s.getPx t q.1 q.2))).getPx t q'.1 q'.2 =
      if q' = q then f (s.getPx t q'.1 q'.2) else s.getPx t q'.1 q'.2 := by
  obtain ⟨P, hP⟩ := State.getPx_eq_dec h hq'
  have hrep : representable d.fmt (s.getPx t q'.1 q'.2) := hP ▸ representable_dec d.fmt P
  rw [(painted_setPx h q f).pixels q' hq', quant_of_keepsColour hf hrep (ha _)]

theorem State.pixA_getPx_setPx_of_keepsColour :
    pixA ((s.setPx t q.1 q.2 (f (s.getPx t q.1 q.2))).getPx t q'.1 q'.2) = pixA (s.getPx t q'.1 q'.2) := by
  rw [State.getPx_setPx_of_keepsColour h hf ha q hq']
  split
  case isTrue => exact ha _
  case isFalse => rfl

end

/-! ### One turn, and the turns of a list, in a 24- or 32-bit buffer -/

/-- A neighbour with a remainder's share put on it, alpha kept (R291). -/
def withShare (er eg eb wt : ℕ) (n : Pixel) : Pixel :=
  pix (addShare (pixR n) er wt) (addShare (pixG n) eg wt) (addShare (pixB n) eb wt) (pixA n)

theorem pixA_withShare (er eg eb wt : ℕ) (n : Pixel) : pixA (withShare er eg eb wt n) = pixA n :=
  pixA_pix ..

theorem State.diffuse_eq_setPx (s : State) (t : Handle) (x y : ℤ) (er eg eb wt : ℕ) :
    s.diffuse t x y er eg eb wt = s.setPx t x y (withShare er eg eb wt (s.getPx t x y)) := rfl

theorem rasterLt_irrefl (q : Point) : ¬ rasterLt q q := by
  unfold rasterLt
  omega

/-- The neighbours of a pixel come after it in raster order. -/
theorem rasterLt_neighbour {k : ℤ × ℤ × ℕ} (hk : k ∈ ditherKernel) (q : Point) :
    rasterLt q (q.1 + k.1, q.2 + k.2.1) := by
  have hoffset : 0 < k.2.1 ∨ 0 = k.2.1 ∧ 0 < k.1 := by
    revert k
    decide
  unfold rasterLt
  omega

/-- The shares of one turn, in R291's order. -/
def State.diffuseAll (s : State) (t : Handle) (q : Point) (er eg eb : ℕ) : State :=
  ditherKernel.foldl (fun s k => s.diffuse t (q.1 + k.1) (q.2 + k.2.1) er eg eb k.2.2) s

/-- A turn: the pixel is quantised, then what the masks cut off is shared out (R291). -/
theorem State.ditherPx_eq (s : State) (t : Handle) (m : Masks) (q : Point) :
    s.ditherPx t m q = (s.setPx t q.1 q.2 (m.quantise (s.getPx t q.1 q.2))).diffuseAll t q
      ((pixR (s.getPx t q.1 q.2)).toNat - (pixR (s.getPx t q.1 q.2) &&& m.mr).toNat)
      ((pixG (s.getPx t q.1 q.2)).toNat - (pixG (s.getPx t q.1 q.2) &&& m.mg).toNat)
      ((pixB (s.getPx t q.1 q.2)).toNat - (pixB (s.getPx t q.1 q.2) &&& m.mb).toNat) := rfl

/-- From s to s' pixel q' of buffer t keeps its alpha, and is as before unless it comes after q. -/
def ChangedAfter (t : Handle) (q q' : Point) (s s' : State) : Prop :=
  pixA (s'.getPx t q'.1 q'.2) = pixA (s.getPx t q'.1 q'.2) ∧
    (¬ rasterLt q q' → s'.getPx t q'.1 q'.2 = s.getPx t q'.1 q'.2)

section
variable {s : State} {t : Handle} {d : Drawbuffer} (h : s.holds t d) (hf : d.fmt.keepsColour)
include h hf

theorem changedAfter_diffuseAll (q : Point) (er eg eb : ℕ) {q' : Point} (hq' : d.inBounds q'.1 q'.2 = true) :
    ChangedAfter t q q' s (s.diffuseAll t q er eg eb) := by
  refine (List.foldlRecOn (motive := fun s' => s'.holds t d ∧ ChangedAfter t q q' s s') ditherKernel _
    ⟨h, rfl, fun _ => rfl⟩ ?_).2
  rintro s' ⟨h', halpha, hsame⟩ k hk
  have halphaShare := pixA_withShare er eg eb k.2.2
  have hsetPx := State.diffuse_eq_setPx s' t (q.1 + k.1) (q.2 + k.2.1) er eg eb k.2.2
  refine ⟨(s'.setPx_byteWrites ..).holds h', ?_, fun hlt => ?_⟩
  · rw [hsetPx, State.pixA_getPx_setPx_of_keepsColour h' hf halphaShare (q.1 + k.1, q.2 + k.2.1) hq', halpha]
  · rw [hsetPx, State.getPx_setPx_of_keepsColour h' hf halphaShare (q.1 + k.1, q.2 + k.2.1) hq', if_neg, hsame hlt]
    rintro rfl
    exact hlt (rasterLt_neighbour hk q)

/-- The turn at q puts q on the grid, and changes no alpha and no earlier pixel. -/
theorem State.getPx_ditherPx (m : Masks) (q : Point) {q' : Point} (hq' : d.inBounds q'.1 q'.2 = true) :
    pixA ((s.ditherPx t m q).getPx t q'.1 q'.2) = pixA (s.getPx t q'.1 q'.2) ∧
      (q' = q → m.OnGrid ((s.ditherPx t m q).getPx t q'.1 q'.2)) ∧
      (rasterLt q' q → (s.ditherPx t m q).getPx t q'.1 q'.2 = s.getPx t q'.1 q'.2) := by
  have hread := State.getPx_setPx_of_keepsColour h hf m.pixA_quantise q hq'
  rw [State.ditherPx_eq]
  obtain ⟨halpha, hsame⟩ := changedAfter_diffuseAll ((s.setPx_byteWrites ..).holds h) hf q _ _ _ hq'
  refine ⟨halpha.trans (State.pixA_getPx_setPx_of_keepsColour h hf m.pixA_quantise q hq'), fun heq => ?_, fun hlt => ?_⟩
  · subst heq
    rw [hsame (rasterLt_irrefl q'), hread, if_pos rfl]
    exact m.onGrid_quantise _
  · rw [hsame fun hlt' => rasterLt_irrefl q' (rasterLt_trans hlt hlt'), hread, if_neg]
    rintro rfl
    exact rasterLt_irrefl q' hlt

/-- In raster order a pixel is not touched after its own turn (R294 (3)). -/
theorem State.getPx_ditherAll (m : Masks) {pts : List Point} (hpts : pts.Pairwise rasterLt) {q' : Point}
    (hq' : d.inBounds q'.1 q'.2 = true) :
    pixA ((s.ditherAll t pts m).getPx t q'.1 q'.2) = pixA (s.getPx t q'.1 q'.2) ∧
      (q' ∈ pts → m.OnGrid ((s.ditherAll t pts m).getPx t q'.1 q'.2)) ∧
      ((∀ q ∈ pts, rasterLt q' q) → (s.ditherAll t pts m).getPx t q'.1 q'.2 = s.getPx t q'.1 q'.2) := by
  induction pts generalizing s with
  | nil => exact ⟨rfl, nofun, fun _ => rfl⟩
  | cons q pts ih =>
    obtain ⟨hfirst, hrest⟩ := List.pairwise_cons.mp hpts
    obtain ⟨halpha, hgrid, hsame⟩ := State.getPx_ditherPx h hf m q hq'
    obtain ⟨halpha', hgrid', hsame'⟩ := ih ((s.ditherPx_byteWrites t m q).holds h) hrest
    refine ⟨halpha'.trans halpha, fun hmem => ?_, fun hlt => ?_⟩
    · rcases List.mem_cons.mp hmem with rfl | hmem
      · exact (hsame' hfirst).symm ▸ hgrid rfl
      · exact hgrid' hmem
    · obtain ⟨hlt, hlts⟩ := List.forall_mem_cons.mp hlt
      exact (hsame' hlts).trans (hsame hlt)

end

/-! ### What dithering leaves alone, in any format -/

/-- From s to s' nothing was done but to write pixels of buffer t. -/
def Repainted (t : Handle) (d : Drawbuffer) (s s' : State) : Prop :=
  ∃ F, Painted t d (fun _ => True) F s s'

section
variable {s s' s'' : State} {t : Handle} {d : Drawbuffer}

theorem Repainted.trans (h : Repainted t d s s') (h' : Repainted t d s' s'') : Repainted t d s s'' := by
  obtain ⟨F, hF⟩ := h
  obtain ⟨G, hG⟩ := h'
  exact ⟨_, hF.trans hG⟩

theorem repainted_setPx (h : s.holds t d) (x y : ℤ) (p : Pixel) : Repainted t d s (s.setPx t x y p) :=
  ⟨_, (painted_setPx h (x, y) fun _ => p).mono fun _ _ => trivial⟩

/-- A loop whose every turn writes pixels writes pixels. -/
theorem repainted_foldl {α : Type} {turn : State → α → State} (hturn : ∀ s a, s.holds t d → Repainted t d s (turn s a))
    (h : s.holds t d) (l : List α) : Repainted t d s (l.foldl turn s) :=
  List.foldlRecOn (motive := Repainted t d s) l turn ⟨_, painted_refl h⟩
    fun s' ⟨F, hF⟩ a _ => Repainted.trans ⟨F, hF⟩ (hturn s' a hF.frame.descriptor)

theorem repainted_ditherPx (m : Masks) (q : Point) (h : s.holds t d) : Repainted t d s (s.ditherPx t m q) := by
  rw [State.ditherPx_eq]
  exact (repainted_setPx h ..).trans
    (repainted_foldl (fun _ _ h => repainted_setPx h ..) ((s.setPx_byteWrites ..).holds h) _)

theorem repainted_ditherAll (h : s.holds t d) (pts : List Point) (m : Masks) :
    Repainted t d s (s.ditherAll t pts m) :=
  repainted_foldl (fun _ q => repainted_ditherPx m q) h pts

end

/-! ### A write of what stands there -/

/-- Bytes read little-endian have these bytes (R65, R131). -/
theorem wordByte_packedOfBytes (bs : List Byte) {k : ℕ} (hk : k < 4) : wordByte (packedOfBytes bs) k = bs.getD k 0 := by
  induction bs generalizing k with
  | nil => simp [packedOfBytes, wordByte]
  | cons b bs ih =>
    have hcons : packedOfBytes (b :: bs) = packedOfBytes bs <<< 8 ||| b.setWidth 32 := rfl
    cases k with
    | zero =>
      ext i hi
      have h32 : i < 32 := by omega
      simp [hcons, wordByte, BitVec.getElem_extractLsb', hi, h32]
    | succ k =>
      rw [List.getD_cons_succ, ← ih (by omega)]
      ext i hi
      have h32 : 8 * (k + 1) + i < 32 := by omega
      have h32' : 8 * k + i < 32 := by omega
      have h8 : ¬ 8 * (k + 1) + i < 8 := by omega
      have hshift : 8 * (k + 1) + i - 8 = 8 * k + i := by omega
      simp [hcons, wordByte, BitVec.getElem_extractLsb', BitVec.getLsbD_of_ge b _ (not_lt.mp h8), h32, h32', h8, hshift]

section
variable {s : State} {t : Handle} {d : Drawbuffer} (h : s.holds t d)
include h

/-- A pixel written back as it reads changes no byte, for the bytes of a pixel are known by what they decode to (R141). -/
theorem State.readByte_setPx_getPx (x y : ℤ) (off : ℕ) :
    (s.setPx t x y (s.getPx t x y)).readByte t off = s.readByte t off := by
  by_cases hq : d.inBounds x y = true
  case neg => rw [State.setPx_outside h hq]
  by_cases hf : d.fmt = .mono1
  · have hbit : ∀ b : Bool, (enc .mono1 (if b then 0xFFFFFFFF else 0x00000000)).getLsbD 0 = b := by decide
    refine BitVec.eq_of_getLsbD_eq fun k _ => ?_
    rw [State.setPx_mono1 h (q := (x, y)) hq hf, State.getPx_mono1 h (q := (x, y)) hq hf, hf, hbit]
    split
    case isTrue heq => rw [heq.1, heq.2]
    case isFalse => rfl
  · have hbytes : d.fmt.bpp / 8 ≤ 4 := by have := d.fmt.bpp_le; omega
    have hlt := packedOfBytes_lt (s.memRead t (d.index (x, y) * (d.fmt.bpp / 8)) (d.fmt.bpp / 8)) (by simpa)
    rw [State.length_memRead, ← Format.bpp_eq_mul hf] at hlt
    rw [State.setPx_bytes h (q := (x, y)) hq hf, State.getPx_bytes h (q := (x, y)) hq hf, ← State.memRead, enc_dec hlt]
    split
    case isFalse => rfl
    case isTrue hin =>
      rw [wordByte_packedOfBytes _ (by omega)]
      refine (State.memRead_getD ..).trans ((if_pos (by omega)).trans ?_)
      rw [Nat.add_sub_cancel' hin.1]

end

/-! ### Dithering with masks that clear nothing -/

theorem addShare_zero (n : Byte) (wt : ℕ) : addShare n 0 wt = n := by
  rw [addShare, Nat.zero_mul, Nat.zero_div, Nat.add_zero, Nat.min_eq_right (Nat.le_of_lt_succ n.isLt),
    BitVec.ofNat_toNat, BitVec.setWidth_eq]

/-- Nothing shared out: the neighbour is written back. -/
theorem State.diffuse_zero (s : State) (t : Handle) (x y : ℤ) (wt : ℕ) :
    s.diffuse t x y 0 0 0 wt = s.setPx t x y (s.getPx t x y) := by
  rw [State.diffuse_eq_setPx, withShare, addShare_zero, addShare_zero, addShare_zero, pix_channels]

/-- Where the masks keep the pixel, its turn writes back what stands there, on the pixel and on each neighbour. -/
theorem State.ditherPx_of_keeps {s : State} {t : Handle} {m : Masks} {q : Point} (hm : m.Keeps (s.getPx t q.1 q.2)) :
    s.ditherPx t m q = (s.setPx t q.1 q.2 (s.getPx t q.1 q.2)).diffuseAll t q 0 0 0 := by
  obtain ⟨hr, hg, hb⟩ := hm
  rw [State.ditherPx_eq, Masks.quantise, hr, hg, hb, pix_channels, Nat.sub_self, Nat.sub_self, Nat.sub_self]

section
variable {s : State} {t : Handle} {d : Drawbuffer}

/-- A loop whose every turn keeps a byte keeps it. -/
theorem State.readByte_foldl {α : Type} {turn : State → α → State} {off : ℕ}
    (hturn : ∀ s a, s.holds t d → (turn s a).holds t d ∧ (turn s a).readByte t off = s.readByte t off)
    (h : s.holds t d) (l : List α) : (l.foldl turn s).readByte t off = s.readByte t off := by
  induction l generalizing s with
  | nil => rfl
  | cons a l ih =>
    obtain ⟨h', hsame⟩ := hturn s a h
    exact (ih h').trans hsame

/-- Shares of nothing change no byte. -/
theorem State.readByte_diffuseAll_zero (h : s.holds t d) (q : Point) (off : ℕ) :
    (s.diffuseAll t q 0 0 0).readByte t off = s.readByte t off := by
  refine State.readByte_foldl (fun s k h => ?_) h ditherKernel
  rw [State.diffuse_zero]
  exact ⟨(s.setPx_byteWrites ..).holds h, State.readByte_setPx_getPx h ..⟩

/-- R294: a buffer whose format decodes to nothing the masks clear keeps its bytes. -/
theorem State.readByte_ditherAll_of_keeps {m : Masks} (hm : ∀ P, m.Keeps (dec d.fmt P)) (h : s.holds t d)
    (pts : List Point) (off : ℕ) : (s.ditherAll t pts m).readByte t off = s.readByte t off := by
  refine State.readByte_foldl (fun s q h => ⟨(s.ditherPx_byteWrites t m q).holds h, ?_⟩) h pts
  have hkeeps : m.Keeps (s.getPx t q.1 q.2) := by
    by_cases hq : d.inBounds q.1 q.2 = true
    · obtain ⟨P, hP⟩ := State.getPx_eq_dec h hq
      exact hP ▸ hm P
    · exact State.getPx_outside h hq ▸ m.keeps_transparent
  rw [State.ditherPx_of_keeps hkeeps, State.readByte_diffuseAll_zero ((s.setPx_byteWrites ..).holds h),
    State.readByte_setPx_getPx h]

/-- Byte writes that leave every byte of their target's space as it was leave host memory as it was. -/
theorem ByteWrites.hostMem_of_bytes {s' : State} (hw : ByteWrites t s s')
    (hbytes : ∀ off, s'.readByte t off = s.readByte t off) (a : ℕ) : s'.hostMem.read a = s.hostMem.read a := by
  by_cases ha : s.outsideRegion t a
  · exact hw.hostMem_outside ha
  · simp only [State.outsideRegion] at ha
    push Not at ha
    obtain ⟨d, base, ctx, hs, hb, hle, -⟩ := ha
    obtain ⟨d', hs', -, -, -, hb'⟩ := hw.holds (State.holds_of_slot hs)
    simp only [hb] at hb'
    simpa [State.readByte, hs, hs', hb, hb', Nat.add_sub_cancel' hle] using hbytes (a - base.toNat)

end

/-! ### Raster loops -/

/-- A loop over a box that begins at the origin is two loops, y outer and x inner. -/
theorem foldl_rasterBox {α : Type} (g : α → Point → α) (a : α) (w h : ℤ) :
    (rasterBox 0 (w - 1) 0 (h - 1)).foldl g a = (List.range h.toNat).foldl (fun a (y : ℕ) =>
      (List.range w.toNat).foldl (fun a (x : ℕ) => g a ((x : ℤ), (y : ℤ))) a) a := by
  simp only [rasterBox, intRange, List.foldl_flatMap, List.foldl_map, sub_zero, sub_add_cancel, zero_add]

/-- Dithering a buffer is R291's loop. -/
theorem State.ditherAll_pixels (s : State) (t : Handle) (d : Drawbuffer) (m : Masks) :
    s.ditherAll t d.pixels m = (List.range d.h).foldl (fun s y => (List.range d.w).foldl (fun s x =>
      s.ditherPx t m ((x : ℤ), (y : ℤ))) s) s :=
  foldl_rasterBox ..

/-! ### The commands -/

section
variable {s : State} {t : Handle} {d : Drawbuffer} (hs : s.slot t = some d) (arg : Word)
include hs

theorem exec_dither :
    exec (.dither t arg) s = onMemory d (.next ((s.ditherAll t d.pixels (masksOf arg)).respond [0])) :=
  withLive_pass hs _

theorem exec_ditherD {f : Format} (hf : f.id = arg.toNat) :
    exec (.ditherD t arg) s = onMemory d (.next ((s.ditherAll t d.pixels f.standardMasks).respond [0])) :=
  (withLive_pass hs _).trans (withFormat_id hf s _)

theorem exec_ditherD_unknown (harg : 10 < arg.toNat) :
    exec (.ditherD t arg) s = .next (s.respond [0x00000002]) :=
  (withLive_pass hs _).trans (withFormat_unknown harg s _)

end

/-! ### The obligations -/

/-- Settles O56: the table of R290. -/
theorem standardMasksTable : Obligations.StandardMasksTable := rfl

/-- Settles O55: each command's exact next state, and the turn's shares one by one. -/
theorem ditherCompletes : Obligations.DitherCompletes := by
  refine ⟨fun s t d arg hs => ?_, fun s t m x y => ?_⟩
  · simp only [← State.ditherAll_pixels]
    exact ⟨fun ha => (exec_dither hs arg).trans (onMemory_pass ha _), exec_ditherD_unknown hs arg,
      fun f hf ha => (exec_ditherD hs arg hf).trans (onMemory_pass ha _)⟩
  · rw [State.ditherPx_eq, State.diffuseAll]
    simp only [ditherKernel, List.foldl_cons, List.foldl_nil, add_zero, ← sub_eq_add_neg]
    rfl

/-- Settles O57: every write of the turns puts back what stands there. -/
theorem ditherKeepsQuantisedBuffers : Obligations.DitherKeepsQuantisedBuffers := by
  refine ⟨fun s s' t d arg m i hs hi hm hexec => ?_, fun f m P hm => ?_⟩
  · have heffect : exec i s = onMemory d (.next ((s.ditherAll t d.pixels m).respond [0])) := by
      rcases hi with ⟨rfl, rfl⟩ | ⟨rfl, f, hf, rfl⟩
      · exact exec_dither hs arg
      · exact exec_ditherD hs arg hf
    obtain ⟨-, hnext⟩ := onMemory_next (heffect.symm.trans hexec)
    obtain rfl := Host.Outcome.next.inj hnext
    have hbytes := State.readByte_ditherAll_of_keeps hm (State.holds_of_slot hs) d.pixels
    exact ⟨hbytes, (s.ditherAll_byteWrites t d.pixels m).hostMem_of_bytes hbytes⟩
  · rcases hm with rfl | ⟨hf, rfl⟩
    · exact Masks.keeps_allOnes _
    · exact Masks.keeps_standardMasks hf P

/-- Settles O58: the pixels by the raster order, the rest because only pixels are written. -/
theorem ditherQuantisesEveryPixel : Obligations.DitherQuantisesEveryPixel := by
  intro s t d arg hs ha
  have h := State.holds_of_slot hs
  obtain ⟨-, -, hresp, -⟩ := (s.ditherAll_byteWrites t d.pixels (masksOf arg)).frame
  obtain ⟨F, -, hpadding, hframe⟩ := repainted_ditherAll h d.pixels (masksOf arg)
  refine ⟨_, (exec_dither hs arg).trans (onMemory_pass ha _), congrArg (· ++ [0]) hresp, fun hf x y hq => ?_, hpadding,
    (hframe.mono fun _ ⟨_, _, hoff⟩ => hoff.lt_byteLength).respond _⟩
  obtain ⟨halpha, hgrid, -⟩ :=
    State.getPx_ditherAll h hf (masksOf arg) (pairwise_rasterBox ..) (q' := (x, y)) hq
  obtain ⟨hr, hg, hb⟩ := hgrid (Drawbuffer.mem_pixels.mpr hq)
  exact ⟨hr, hg, hb, halpha⟩

end Sys2Proof.Machine

/-! ## Proofs of the compositor's family

R301's loop with its two errors is `compose`, one lemma per outcome. Where source and target share no byte, no write of
the loop changes a source pixel (`State.Apart.getPx_eq`), so the loop is one pass over the points of the scaled block in
which each takes the source pixel it stands for (`State.composeAll_eq_foldl`); and the points of the block are listed
once each (`nodup_blockPoints`). -/

namespace Sys2Proof.Machine

/-! ### Buffers that share no byte -/

/-- No byte in the space of a buffer with descriptor ds lies in the region of buffer t. -/
def State.Apart (s : State) (t : Handle) (ds : Drawbuffer) : Prop :=
  ∀ base ctx, ds.backing = .borrowed base ctx → ∀ off < ds.byteLength, s.outsideRegion t (base.toNat + off)

/-- Two buffers are apart where one is Owned or their regions are disjoint. -/
theorem State.apart_of_disjoint {s : State} {t : Handle} {dt ds : Drawbuffer} (ht : s.slot t = some dt)
    (hdisj : (∃ mem, dt.backing = .owned mem) ∨ (∃ mem, ds.backing = .owned mem) ∨
      ∃ bt ct bs cs, dt.backing = .borrowed bt ct ∧ ds.backing = .borrowed bs cs ∧
        (bt.toNat + dt.byteLength ≤ bs.toNat ∨ bs.toNat + ds.byteLength ≤ bt.toNat)) : s.Apart t ds := by
  intro base ctx hb off hoff d bt ct hd hbt
  obtain rfl : dt = d := Option.some.inj (ht.symm.trans hd)
  rcases hdisj with ⟨mem, hmem⟩ | ⟨mem, hmem⟩ | ⟨bt', ct', bs, cs, hbt', hbs, hregions⟩
  · cases hmem.symm.trans hbt
  · cases hmem.symm.trans hb
  · cases hbt'.symm.trans hbt
    cases hbs.symm.trans hb
    omega

/-- What a pixel reads as depends on the bytes of its buffer's space only. -/
theorem State.getPx_congr {s s' : State} {t : Handle} {d : Drawbuffer} (h : s.holds t d) (h' : s'.holds t d)
    (hbytes : ∀ off < d.byteLength, s'.readByte t off = s.readByte t off) (x y : ℤ) :
    s'.getPx t x y = s.getPx t x y := by
  rw [State.getPx_of_holds h', State.getPx_of_holds h]
  refine if_ctx_congr Iff.rfl (fun hq => ?_) fun _ => rfl
  have hfits : (pixelSpan d.fmt d.w x.toNat y.toNat).1 + (pixelSpan d.fmt d.w x.toNat y.toNat).2 ≤ d.byteLength :=
    Drawbuffer.pixelSpan_le (q := (x, y)) hq
  simp only [State.decodePx]
  split
  case isTrue hf =>
    have hone : (pixelSpan d.fmt d.w x.toNat y.toNat).2 = 1 := by rw [pixelSpan, if_pos hf]
    rw [hbytes _ (show (pixelSpan d.fmt d.w x.toNat y.toNat).1 < d.byteLength by omega)]
  case isFalse =>
    refine congrArg (dec d.fmt) (congrArg packedOfBytes (List.map_congr_left fun k hk => hbytes _ ?_))
    have := List.mem_range.mp hk
    omega

section
variable {s s' : State} {t src : Handle} {ds : Drawbuffer} (hapart : s.Apart t ds) (hne : t ≠ src)
  (hs : s.slot src = some ds) (hw : ByteWrites t s s')
include hapart hne hs hw

/-- Writes to a buffer leave the bytes of a buffer apart from it. -/
theorem State.Apart.readByte_eq {off : ℕ} (hoff : off < ds.byteLength) : s'.readByte src off = s.readByte src off := by
  have hslot := hw.touchesOnly.otherSlots src hne.symm
  rw [hs] at hslot
  cases hb : ds.backing with
  | owned mem => simp only [State.readByte, hs, hslot, hb]
  | borrowed base ctx =>
    simp only [State.readByte, hs, hslot, hb]
    exact hw.hostMem_outside (hapart base ctx hb off hoff)

/-- Writes to a buffer leave the pixels of a buffer apart from it. -/
theorem State.Apart.getPx_eq (x y : ℤ) : s'.getPx src x y = s.getPx src x y :=
  State.getPx_congr (State.holds_of_slot hs)
    (State.holds_of_slot ((hw.touchesOnly.otherSlots src hne.symm).trans hs))
    (fun _ => State.Apart.readByte_eq hapart hne hs hw) x y

end

/-! ### One target pixel -/

/-- What a policy makes of the target pixel `old`, in a buffer of format f, given source pixel p (R300). -/
def AlphaPolicy.paint (f : Format) (p old : Pixel) : AlphaPolicy → Pixel
  | .overwrite => quant f p
  | .skipTransparent => if pixA p = 0 then old else quant f p
  | .alphaBlend => quant f (blend old p)

theorem State.composePx_skipTransparent (s : State) (t : Handle) (p : Pixel) (x y : ℤ) :
    s.composePx t .skipTransparent p x y = if pixA p = 0 then s else s.setPx t x y p :=
  ite_not ..

theorem painted_composePx {s : State} {t : Handle} {d : Drawbuffer} (h : s.holds t d) (policy : AlphaPolicy) (p : Pixel)
    (q : Point) :
    Painted t d (· = q) (fun q' old => if q' = q then policy.paint d.fmt p old else old) s
      (s.composePx t policy p q.1 q.2) := by
  cases policy with
  | overwrite => exact painted_setPx h q fun _ => p
  | alphaBlend => exact painted_setPx h q fun old => blend old p
  | skipTransparent =>
    rw [State.composePx_skipTransparent]
    by_cases hp : pixA p = 0
    · simp only [AlphaPolicy.paint, if_pos hp, ite_self]
      exact painted_refl h
    · simp only [AlphaPolicy.paint, if_neg hp]
      exact painted_setPx h q fun _ => p

/-! ### The points of the scaled block -/

/-- On one axis, the target place x that is step u of the block of source step i, and the steps that x determines. -/
theorem blockPlace_iff {k : ℤ} (hk : 1 ≤ k) {t n i u x : ℤ} :
    ((0 ≤ i ∧ i ≤ n - 1) ∧ (0 ≤ u ∧ u ≤ k - 1) ∧ t + i * k + u = x) ↔
      (t ≤ x ∧ x < t + n * k) ∧ i = (x - t) / k ∧ u = (x - t) % k := by
  have hsteps := Int.ediv_emod_unique (a := x - t) (r := u) (q := i) (show 0 < k by omega)
  have hlow : 0 ≤ (x - t) / k ↔ 0 ≤ x - t := by rw [Int.le_ediv_iff_mul_le (by omega), zero_mul]
  have hhigh : (x - t) / k < n ↔ x - t < n * k := Int.ediv_lt_iff_lt_mul (by omega)
  rw [mul_comm k i] at hsteps
  constructor
  · rintro ⟨⟨hi0, hin⟩, ⟨hu0, huk⟩, hx⟩
    obtain ⟨rfl, rfl⟩ := hsteps.mpr ⟨by omega, hu0, by omega⟩
    omega
  · rintro ⟨⟨hx0, hxn⟩, hi, hu⟩
    obtain ⟨hx, hu0, huk⟩ := hsteps.mp ⟨hi.symm, hu.symm⟩
    omega

section
variable (tx ty w h kx ky : ℤ)

/-- The target point that step uv of source pixel q's block writes (R301). -/
def blockPoint (q uv : Point) : Point := (tx + q.1 * kx + uv.1, ty + q.2 * ky + uv.2)

/-- The source pixel, from the region's corner, that a target point stands for (R301). -/
def blockSource (q : Point) : Point := ((q.1 - tx) / kx, (q.2 - ty) / ky)

/-- The step of a target point inside its source pixel's block. -/
def blockStep (q : Point) : Point := ((q.1 - tx) % kx, (q.2 - ty) % ky)

/-- The target point lies in the scaled block (R301). -/
def InBlock (q : Point) : Prop := tx ≤ q.1 ∧ q.1 < tx + w * kx ∧ ty ≤ q.2 ∧ q.2 < ty + h * ky

/-- The points that R301's loop writes, in its order. -/
def blockPoints : List Point :=
  (rasterBox 0 (w - 1) 0 (h - 1) ×ˢ rasterBox 0 (kx - 1) 0 (ky - 1)).map fun r => blockPoint tx ty kx ky r.1 r.2

variable {tx ty w h kx ky} (hkx : 1 ≤ kx) (hky : 1 ≤ ky)
include hkx hky

/-- A source pixel and a step write a point of the block, and the point determines them. -/
theorem blockPoint_eq_iff {q uv p : Point} :
    (q ∈ rasterBox 0 (w - 1) 0 (h - 1) ∧ uv ∈ rasterBox 0 (kx - 1) 0 (ky - 1)) ∧ blockPoint tx ty kx ky q uv = p ↔
      InBlock tx ty w h kx ky p ∧ q = blockSource tx ty kx ky p ∧ uv = blockStep tx ty kx ky p := by
  have hx := blockPlace_iff hkx (t := tx) (n := w) (i := q.1) (u := uv.1) (x := p.1)
  have hy := blockPlace_iff hky (t := ty) (n := h) (i := q.2) (u := uv.2) (x := p.2)
  simp only [mem_rasterBox, blockPoint, InBlock, blockSource, blockStep, Prod.ext_iff]
  constructor
  · rintro ⟨⟨⟨hi0, hin, hj0, hjn⟩, hu0, huk, hv0, hvk⟩, hpx, hpy⟩
    obtain ⟨⟨hx0, hxn⟩, hi, hu⟩ := hx.mp ⟨⟨hi0, hin⟩, ⟨hu0, huk⟩, hpx⟩
    obtain ⟨⟨hy0, hyn⟩, hj, hv⟩ := hy.mp ⟨⟨hj0, hjn⟩, ⟨hv0, hvk⟩, hpy⟩
    exact ⟨⟨hx0, hxn, hy0, hyn⟩, ⟨hi, hj⟩, hu, hv⟩
  · rintro ⟨⟨hx0, hxn, hy0, hyn⟩, ⟨hi, hj⟩, hu, hv⟩
    obtain ⟨⟨hi0, hin⟩, ⟨hu0, huk⟩, hpx⟩ := hx.mpr ⟨⟨hx0, hxn⟩, hi, hu⟩
    obtain ⟨⟨hj0, hjn⟩, ⟨hv0, hvk⟩, hpy⟩ := hy.mpr ⟨⟨hy0, hyn⟩, hj, hv⟩
    exact ⟨⟨⟨hi0, hin, hj0, hjn⟩, hu0, huk, hv0, hvk⟩, hpx, hpy⟩

theorem mem_blockPoints {p : Point} : p ∈ blockPoints tx ty w h kx ky ↔ InBlock tx ty w h kx ky p := by
  constructor
  · intro hmem
    obtain ⟨⟨q, uv⟩, hsteps, hp⟩ := List.mem_map.mp hmem
    exact ((blockPoint_eq_iff hkx hky).mp ⟨List.pair_mem_product.mp hsteps, hp⟩).1
  · intro hin
    obtain ⟨hsteps, hp⟩ := (blockPoint_eq_iff hkx hky).mpr ⟨hin, rfl, rfl⟩
    exact List.mem_map.mpr ⟨(_, _), List.pair_mem_product.mpr hsteps, hp⟩

/-- R301's loop writes no point twice. -/
theorem nodup_blockPoints : (blockPoints tx ty w h kx ky).Nodup := by
  refine List.Nodup.map_on ?_ ((nodup_rasterBox ..).product (nodup_rasterBox ..))
  rintro ⟨q, uv⟩ hmem ⟨q', uv'⟩ hmem' heq
  obtain ⟨-, hq, huv⟩ := (blockPoint_eq_iff hkx hky).mp ⟨List.pair_mem_product.mp hmem, rfl⟩
  obtain ⟨-, hq', huv'⟩ := (blockPoint_eq_iff hkx hky).mp ⟨List.pair_mem_product.mp hmem', heq.symm⟩
  exact Prod.ext (hq.trans hq'.symm) (huv.trans huv'.symm)

end

/-! ### R301's loop -/

/-- R301's loop as it stands in the spec: j outer, i inner, then v outer, u inner. -/
theorem State.composeAll_eq_loop (s : State) (t src : Handle) (policy : AlphaPolicy) (tx ty sx sy w h kx ky : ℤ) :
    s.composeAll t src policy tx ty sx sy w h kx ky =
      (List.range h.toNat).foldl (fun s j => (List.range w.toNat).foldl (fun s i =>
        (List.range ky.toNat).foldl (fun s' v => (List.range kx.toNat).foldl (fun s' u =>
          s'.composePx t policy (s.getPx src (sx + (i : ℤ)) (sy + (j : ℤ))) (tx + (i : ℤ) * kx + (u : ℤ))
            (ty + (j : ℤ) * ky + (v : ℤ))) s') s) s) s := by
  simp only [State.composeAll, State.composeBlock, foldl_rasterBox]

/-- The source pixel that a target point of the scaled block stands for (R301). -/
def State.sourcePx (s : State) (src : Handle) (tx ty sx sy kx ky : ℤ) (q : Point) : Pixel :=
  s.getPx src (sx + (blockSource tx ty kx ky q).1) (sy + (blockSource tx ty kx ky q).2)

section
variable {s : State} {t src : Handle} {ds : Drawbuffer} (hapart : s.Apart t ds) (hne : t ≠ src)
  (hs : s.slot src = some ds) {kx ky : ℤ} (hkx : 1 ≤ kx) (hky : 1 ≤ ky) (policy : AlphaPolicy)
  (tx ty sx sy w h : ℤ)
include hapart hne hs hkx hky

/-- Where source and target share no byte, the loop is one pass over the block's points. -/
theorem State.composeAll_eq_foldl :
    s.composeAll t src policy tx ty sx sy w h kx ky = (blockPoints tx ty w h kx ky).foldl
      (fun s' p => s'.composePx t policy (s.sourcePx src tx ty sx sy kx ky p) p.1 p.2) s := by
  simp only [blockPoints, SProd.sprod, List.product, List.foldl_map, List.foldl_flatMap]
  refine (List.foldl_rel (r := fun s₁ s₂ => s₁ = s₂ ∧ ByteWrites t s s₁) ⟨rfl, .refl⟩ ?_).1
  rintro q hq s' _ ⟨rfl, hw⟩
  refine ⟨List.foldl_ext _ _ _ fun s'' uv huv => ?_,
    hw.trans (byteWrites_foldl _ (fun s _ => State.composePx_byteWrites ..) s' _)⟩
  obtain ⟨-, hsource, -⟩ := (blockPoint_eq_iff (tx := tx) (ty := ty) hkx hky).mp ⟨⟨hq, huv⟩, rfl⟩
  rw [State.Apart.getPx_eq hapart hne hs hw, State.sourcePx, ← hsource, blockPoint]

/-- R301's loop where source and target share no byte: each point of the scaled block is painted once. -/
theorem painted_composeAll {dt : Drawbuffer} (ht : s.slot t = some dt) :
    Painted t dt (InBlock tx ty w h kx ky)
      (fun p => (policy.paint dt.fmt (s.sourcePx src tx ty sx sy kx ky p))^[(blockPoints tx ty w h kx ky).count p]) s
      (s.composeAll t src policy tx ty sx sy w h kx ky) := by
  rw [State.composeAll_eq_foldl hapart hne hs hkx hky]
  exact (painted_foldl (touched := fun _ => True)
    (fun s' p h' => (painted_composePx h' policy _ p).mono fun _ hp => ⟨hp, trivial⟩) _ (State.holds_of_slot ht)).mono
    fun p hp => (mem_blockPoints hkx hky).mp hp.1

end

/-! ### The commands -/

section
variable {s : State} {t src : Handle} {dt ds : Drawbuffer} (ht : s.slot t = some dt) (hs : s.slot src = some ds)
  (tx ty sx sy w h : Word) {kx ky : Word}
include ht hs

theorem compose_scaleBelowOne (policy : AlphaPolicy) (hk : kx.toInt < 1 ∨ ky.toInt < 1) :
    compose t src policy tx ty sx sy w h kx ky s = .next (s.respond [0x00000001]) :=
  (withLive_pass ht _).trans ((withLive_pass hs _).trans (if_pos hk))

variable (hkx : 1 ≤ kx.toInt) (hky : 1 ≤ ky.toInt)
include hkx hky

theorem compose_blendScaled (hk : 1 < kx.toInt ∨ 1 < ky.toInt) :
    compose t src .alphaBlend tx ty sx sy w h kx ky s = .next (s.respond [0x00000006]) :=
  (withLive_pass ht _).trans ((withLive_pass hs _).trans
    ((if_neg (not_or.mpr ⟨hkx.not_gt, hky.not_gt⟩)).trans (if_pos ⟨rfl, hk⟩)))

theorem compose_next {policy : AlphaPolicy} (hk : policy = .alphaBlend → kx.toInt = 1 ∧ ky.toInt = 1)
    (hta : dt.addressable = true) (hsa : ds.addressable = true) :
    compose t src policy tx ty sx sy w h kx ky s = .next ((s.composeAll t src policy tx.toInt ty.toInt sx.toInt sy.toInt
      w.toInt h.toInt kx.toInt ky.toInt).respond [0]) := by
  have hscale : ¬ (policy = .alphaBlend ∧ (1 < s32 kx ∨ 1 < s32 ky)) := by
    rintro ⟨hpolicy, hlt⟩
    obtain ⟨hx, hy⟩ := hk hpolicy
    simp only [s32] at hlt
    omega
  exact (withLive_pass ht _).trans ((withLive_pass hs _).trans
    ((if_neg (not_or.mpr ⟨hkx.not_gt, hky.not_gt⟩)).trans ((if_neg hscale).trans
      ((onMemory_pass hta _).trans (onMemory_pass hsa _)))))

end

/-! ### The obligations -/

/-- Settles O59: one lemma per outcome, and the loop written out. The statement's loop runs over ranges cast to integers,
which `bind_pure_comp` and `List.foldl_map` turn into ranges of naturals cast where they are used. -/
theorem composeCompletes : Obligations.ComposeCompletes := by
  intro s t src dt ds tx ty sx sy w h kx ky ht hs
  simp only [← State.composePx_skipTransparent, bind_pure_comp, List.map_eq_map, List.foldl_map]
  have hbelow := fun policy => compose_scaleBelowOne ht hs tx ty sx sy w h (kx := kx) (ky := ky) policy
  refine ⟨fun hk => ⟨hbelow .overwrite hk, hbelow .skipTransparent hk, hbelow .alphaBlend hk⟩,
    compose_blendScaled ht hs tx ty sx sy w h, fun hkx hky hta hsa => ?_⟩
  have hnext := fun policy hk => compose_next ht hs tx ty sx sy w h hkx hky (policy := policy) hk hta hsa
  simp only [State.composeAll_eq_loop] at hnext
  exact ⟨hnext .overwrite nofun, hnext .skipTransparent nofun, fun hx hy => hnext .alphaBlend fun _ => ⟨hx, hy⟩⟩

/-- Settles O60: the loop is one pass over the block's points, each once, that reads the source as it was. -/
theorem composeCopiesTheRegion : Obligations.ComposeCopiesTheRegion := by
  intro s t src dt ds tx ty sx sy w h kx ky i policy ht hs hta hsa hne hdisj hkx hky hi
  have hexec : exec i s = compose t src policy tx ty sx sy w h kx ky s ∧
      (policy = .alphaBlend → kx.toInt = 1 ∧ ky.toInt = 1) := by
    rcases hi with ⟨rfl, rfl⟩ | ⟨rfl, rfl⟩ | ⟨rfl, rfl, hone⟩
    · exact ⟨rfl, nofun⟩
    · exact ⟨rfl, nofun⟩
    · exact ⟨rfl, fun _ => hone⟩
  obtain ⟨hexec, hscale⟩ := hexec
  obtain ⟨-, -, hresp, -⟩ := (s.composeAll_byteWrites t src policy tx.toInt ty.toInt sx.toInt sy.toInt w.toInt h.toInt
    kx.toInt ky.toInt).frame
  obtain ⟨hpixels, hpadding, hframe⟩ := painted_composeAll (State.apart_of_disjoint ht hdisj) hne hs hkx hky policy
    tx.toInt ty.toInt sx.toInt sy.toInt w.toInt h.toInt ht
  refine ⟨_, hexec.trans (compose_next ht hs tx ty sx sy w h hkx hky hscale hta hsa), congrArg (· ++ [0]) hresp,
    fun x y hin => (hpixels (x, y) hin).trans ?_, hpadding, hframe.respond _⟩
  rw [(nodup_blockPoints hkx hky).count]
  by_cases hblock : InBlock tx.toInt ty.toInt w.toInt h.toInt kx.toInt ky.toInt (x, y)
  · rw [if_pos ((mem_blockPoints hkx hky).mpr hblock), Function.iterate_one]
    refine .trans ?_ (if_pos hblock).symm
    cases policy <;> rfl
  · rw [if_neg (mt (mem_blockPoints hkx hky).mp hblock), Function.iterate_zero]
    exact (if_neg hblock).symm

end Sys2Proof.Machine

/-! ## Proofs of the exceptions' family: precise faults, errors that change nothing, and the checks of the handles

Behind a header that passes its checks no step writes FAULT (`step_fault_eq`), so a step that changes FAULT is one of
the two traps. Of the effects of a command only an error's sends a single error word. Where R328's check fails, every
meaning takes BadHandle (`exec_badHandle`). -/

namespace Sys2Proof.Machine

/-! ### Status words -/

theorem statusWord_fields (status cause : Byte) :
    (statusWord status cause).extractLsb' 0 8 = status ∧ (statusWord status cause).extractLsb' 8 8 = cause ∧
      (statusWord status cause).extractLsb' 16 16 = 0 := by
  unfold statusWord
  refine ⟨BitVec.extractLsb'_append_eq_right, ?_, ?_⟩
  · rw [BitVec.extractLsb'_append_eq_of_le (le_refl 8)]
    exact BitVec.extractLsb'_append_eq_right
  · rw [BitVec.extractLsb'_append_eq_of_le (by decide), BitVec.extractLsb'_append_eq_of_le (by decide)]
    exact BitVec.extractLsb'_eq_self

/-- What is sent as one word and as OK with results is the OK word. -/
theorem eq_statusOk_of_sent {sent before results : List Word} {e : Word} (hok : sent = before ++ statusOk :: results)
    (he : sent = before ++ [e]) : e = statusOk := by
  obtain ⟨h, -⟩ := List.cons.inj (List.append_cancel_left (he.symm.trans hok))
  exact h

/-! ### A step whose header passes -/

section
variable {s : State} {hdr : Word} {rest : List Word} {hd : Header}

/-- A command's header is the one its first word decodes to. -/
theorem header_eq_of_decode {i : Instr} {rest' : List Word} (hhd : decodeHeader hdr = some hd)
    (hdec : decode (hdr :: rest) = .ok (i, rest')) : i.header = hd := by
  obtain ⟨-, hwords⟩ := decode_eq_ok.mp hdec
  obtain ⟨rfl, -⟩ := List.cons.inj hwords
  exact Option.some.inj ((decodeHeader_header i).symm.trans hhd)

/-- With words of a command missing the step is stuck (U15; log entry 6). -/
theorem step_waiting (hf : s.faultCause = 0) (hp : s.port = hdr :: rest) (hhd : decodeHeader hdr = some hd)
    (hrule : s.handleRule hd) {e : DecodeError} (hdec : decode (hdr :: rest) = .error e) :
    step s = .fault .awaitingArguments := by
  simp [step, State.fetch, hp, hf, hhd, State.handlesOk_iff.mpr hrule, hdec]

/-- Behind a header that passes R328 no step writes FAULT. -/
theorem step_fault_eq (hf : s.faultCause = 0) (hp : s.port = hdr :: rest) (hhd : decodeHeader hdr = some hd)
    (hrule : s.handleRule hd) {s' : State} (h : step s = .next s') : s'.fault = s.fault := by
  cases hdec : decode (hdr :: rest) with
  | error e => cases (step_waiting hf hp hhd hrule hdec).symm.trans h
  | ok r =>
    obtain ⟨i, rest'⟩ := r
    obtain rfl := header_eq_of_decode hhd hdec
    have heff : Effect i (s.setPort rest') s' := exec_effect ((step_command hf (hp ▸ hdec) hrule).symm.trans h)
    exact heff.fault_eq hrule

end

/-! ### Where the handle check fails -/

theorem State.slot_eq_none_of_not_liveAt {s : State} {t : Handle} (h : ¬ s.liveAt t) : s.slot t = none :=
  Option.eq_none_iff_forall_ne_some.mpr fun d hd => h ⟨d, State.slot_eq_some.mp hd⟩

/-- COMPOSE under any policy checks both its handles, the target first (R328, R330). -/
theorem compose_badHandle {s : State} {t src : Handle} (h : ¬ (s.liveAt t ∧ s.liveAt src)) (policy : AlphaPolicy)
    (tx ty sx sy w h' scaleX scaleY : S32) :
    compose t src policy tx ty sx sy w h' scaleX scaleY s = .next (s.takeFault .badHandle) := by
  cases ht : s.slot t with
  | none => exact withLive_fail ht _
  | some d =>
    have hsrc : s.slot src = none :=
      State.slot_eq_none_of_not_liveAt fun hlive => h ⟨⟨d, State.slot_eq_some.mp ht⟩, hlive⟩
    exact (withLive_pass ht _).trans (withLive_fail hsrc _)

/-- Where R328's check fails, every meaning takes BadHandle (log entry 10). -/
theorem exec_badHandle {i : Instr} {s : State} (h : ¬ s.handleRule i.header) :
    exec i s = .next (s.takeFault .badHandle) := by
  cases i with
  | pxDecode | pxEncode | fmtBpp | fmtSize | fmtName | fmtId | blend => exact absurd trivial h
  | new | wrap => exact withEmpty_fail h _
  | close t => exact (withExisting_fail h _ : execClose t s = _)
  | composeOp | composeSkip | composeBlend => exact compose_badHandle h ..
  | _ => exact withLive_fail (State.slot_eq_none_of_not_liveAt h) _

/-! ### The obligations -/

/-- Settles O15: in the priority of R330, the two traps are precise and no other step changes FAULT. -/
theorem faultsArePrecise : Obligations.FaultsArePrecise := by
  intro s s' h hfault
  cases hp : s.port with
  | nil =>
    obtain rfl := Host.Outcome.next.inj ((step_idle hp).symm.trans h)
    exact absurd rfl hfault
  | cons hdr rest =>
    by_cases hf : s.faultCause = 0
    · cases hhd : decodeHeader hdr with
      | none =>
        obtain rfl := Host.Outcome.next.inj ((step_illegalCommand hf hp hhd).symm.trans h)
        exact ⟨rfl, rfl, rfl, rfl, _, rfl⟩
      | some hd =>
        by_cases hrule : s.handleRule hd
        · exact absurd (step_fault_eq hf hp hhd hrule h) hfault
        · obtain rfl := Host.Outcome.next.inj ((step_badHandle hf hp hhd hrule).symm.trans h)
          exact ⟨rfl, rfl, rfl, rfl, _, rfl⟩
    · obtain rfl := Host.Outcome.next.inj ((step_faulted hf hp).symm.trans h)
      exact absurd rfl hfault

/-- Settles O16: an effect that is no error's sends BadHandle's word, an OK word, or a teardown's three words. -/
theorem errorsChangeNoState : Obligations.ErrorsChangeNoState := by
  intro i s s' e h hresp hmin hmax
  have not_ok : ∀ results, s'.resp ≠ s.resp ++ statusOk :: results := by
    intro results hok
    obtain rfl := eq_statusOk_of_sent hok hresp
    exact absurd hmin (by decide)
  cases exec_effect h with
  | error | denied => exact ⟨rfl, rfl, rfl, rfl⟩
  | badHandle =>
    obtain rfl : statusFaulted FaultCause.badHandle.code = e := List.singleton_inj.mp (List.append_cancel_left hresp)
    exact absurd hmax (by decide)
  | answer results => exact absurd rfl (not_ok results)
  | write _ _ hw =>
    obtain ⟨-, -, hsent, -⟩ := hw.frame
    exact absurd (congrArg (· ++ [statusOk]) hsent) (not_ok [])
  | new | wrap | close => exact absurd rfl (not_ok [])
  | teardown => simp at hresp

/-- Settles O8: each meaning begins with the check of its row of R328's table. -/
theorem everyMeaningChecksItsHandles : Obligations.EveryMeaningChecksItsHandles :=
  fun _ _ => exec_badHandle

/-- Settles O9: the word is the faulted status word, field by field. -/
theorem faultedStateAnswersEachWord : Obligations.FaultedStateAnswersEachWord :=
  fun s _ _ hf hp => ⟨⟨statusFaulted s.faultCause, step_faulted hf hp, statusWord_fields _ _⟩, s.assertReset_fault⟩

end Sys2Proof.Machine

/-! ## Proofs of the reset's family: waiting, the host's moves, and the state after reset

Both reset states, `State.reset` and `State.assertReset`, have a table of Empty slots: what follows from such a table is
said once (`State.slot_eq_none_of_replicate`, `State.inv_of_reset`) and used of both. -/

namespace Sys2Proof.Machine

/-- NUM_SLOTS lies in its range (R11). -/
theorem Config.numSlots_bounds : 1 ≤ Config.numSlots ∧ Config.numSlots ≤ 256 :=
  ⟨Nat.succ_pos _, Config.numSlotsLessOne.isLt⟩

/-- A table of Empty slots holds no descriptor. -/
theorem State.slot_eq_none_of_replicate {s : State} {n : Nat} (hslots : s.slots = List.replicate n none) (h : Handle) :
    s.slot h = none := by
  refine Option.eq_none_iff_forall_ne_some.mpr fun d hd => ?_
  have hmem : some d ∈ List.replicate n none := hslots ▸ State.mem_of_slot hd
  cases List.eq_of_mem_replicate hmem

/-- Empty slots and FAULT 0 leave host memory as the invariant's only concern (R351). -/
theorem State.inv_of_reset {s : State} {n : Nat} (hslots : s.slots = List.replicate n none) (hmin : 1 ≤ n)
    (hmax : n ≤ 256) (hfault : s.fault = 0) (hwf : s.hostMem.wf) (hhost : ∀ c ∈ s.hostMem, c.1 < 2 ^ 64) : s.Inv := by
  have hlen : s.slots.length = n := by rw [hslots, List.length_replicate]
  refine ⟨hlen.symm ▸ hmin, hlen.symm ▸ hmax, fun d hd => ?_, .inl hfault, hwf, hhost⟩
  cases List.eq_of_mem_replicate (hslots ▸ hd)

theorem State.reset_inv : State.reset.Inv := by
  obtain ⟨hmin, hmax⟩ := Config.numSlots_bounds
  exact State.inv_of_reset rfl hmin hmax rfl State.reset_hostMem_wf nofun

theorem State.Inv.assertReset {s : State} (h : s.Inv) : s.assertReset.Inv := by
  obtain ⟨hmin, hmax, -, -, hwf, hhost⟩ := h
  exact State.inv_of_reset s.assertReset_slots hmin hmax s.assertReset_fault hwf hhost

theorem State.Inv.present {s : State} (h : s.Inv) (ws : List Word) : (s.present ws).Inv := h.congr rfl rfl rfl

theorem State.Inv.takeResponses {s : State} (h : s.Inv) : s.takeResponses.2.Inv := h.congr rfl rfl rfl

theorem State.Inv.hostWrite {s : State} (h : s.Inv) (a : HostAddr) (v : Byte) : (s.hostWrite a v).Inv :=
  h.hostMem_write a.isLt v

/-! ### The obligations -/

/-- Settles O11: the idle port, and the port where the words behind a passing header run out. -/
theorem waitingMovesNothing : Obligations.WaitingMovesNothing :=
  ⟨fun _ => step_idle, fun _ _ _ _ hp hf hhd hrule hdec => step_waiting hf hp hhd hrule (hp ▸ hdec)⟩

/-- Settles O13: an empty table is legal, and each other move of the host leaves slots and FAULT alone. -/
theorem resetMeetsTheInvariant : Obligations.ResetMeetsTheInvariant :=
  ⟨State.reset_inv, fun _ h => ⟨h.assertReset, h.present, h.takeResponses, h.hostWrite⟩⟩

/-- Settles O14: the table of either reset state repeats the Empty slot. -/
theorem resetLeavesEverySlotEmpty : Obligations.ResetLeavesEverySlotEmpty :=
  ⟨⟨List.length_replicate, State.slot_eq_none_of_replicate (s := State.reset) rfl, rfl, rfl, rfl⟩, fun s =>
    ⟨List.length_replicate, State.slot_eq_none_of_replicate s.assertReset_slots, s.assertReset_fault,
      s.assertReset_port, s.assertReset_resp, s.assertReset_hostMem⟩⟩

end Sys2Proof.Machine
